-- ==== Sys2Proof/Word.lean ====
section
/-! DEFINITION. The word types of the machine. -/

namespace Sys2Proof

/-- A byte of the program text (R31). -/
abbrev Byte := BitVec 8

/-- An instruction as the 32-bit value `instr` the decoder sees (R8, R38). -/
abbrev Word := BitVec 32

/-- A byte address of the 32-bit address space (R25, R31). -/
abbrev Addr := BitVec 32

/-- The contents of one SIMD&FP doubleword register, and `imm64` (R7, R16). -/
abbrev DWord := BitVec 64

/-- The number `UInt(D:Vd)` of a SIMD&FP doubleword register, 0 to 31 (R7, R44). -/
abbrev RegNum := BitVec 5

end Sys2Proof
end

