-- ==== Sys2Proof/Config.lean ====
section
/-! DEFINITION. The implementation parameters of rule R6 as plain data, and the free values.

The spec gives the source's open functions as named parameters. `P_SIMD_CHECK`, `P_EXPAND`, `P_FETCH` and
`P_UNDEF_COND_FAIL` are data of `Params`, which `State` carries: a statement about every state is a
statement about every value of them. `P_COND` reads the state's condition context (Machine/Flags), and
`P_LAUNCH` is the state a run starts in. -/

namespace Sys2Proof

/-- The two instruction sets the page gives encodings for (R2, R24). -/
inductive ISet where
  | a32
  | t32
deriving DecidableEq, Repr

/-- The PE mode. The page names one mode, Hyp, and lists no other (R23, R99); every other mode is a
code the model never looks into. -/
inductive PEMode where
  | hyp
  | other (code : Nat)
deriving DecidableEq, Repr

/-- The Security state: an enumeration the page does not give (R23), held as a code the model never
looks into. -/
structure SecurityState where
  code : Nat
deriving DecidableEq, Repr

/-- What the Advanced SIMD enable check answers (R62). -/
inductive SimdCheck where
  | enabled
  | undefined
  | hypTrap
deriving DecidableEq, Repr

/-- What `P_SIMD_CHECK` may look at: the five inputs the page names (R23) and the place in the run,
since the spec's parameter is a function of the whole state and may answer differently at different
steps of one run (95_test_vectors.md P5). -/
structure SimdInputs where
  cpacr : Nat
  nsacr : Nat
  hcptr : Nat
  securityState : SecurityState
  peMode : PEMode
  pc : Addr
deriving DecidableEq, Repr

/-- The arguments of `P_FETCH` (R6): the program text as a whole, the address of the instruction and the
instruction-set state. -/
structure FetchInputs where
  text : List Host.Cell
  pc : Addr
  iset : ISet
deriving DecidableEq, Repr

/-- `P_UNDEF_COND_FAIL`: what an UNDEFINED encoding whose condition fails may do (R93). -/
inductive UndefCondFail where
  | nop
  | undefined
  | either
deriving DecidableEq, Repr

/-- The parameters of rule R6 that are free in the model. A function is given as its rows, the first
row of a key counting, and a value for every other key, so that a parameter is plain data. -/
structure Params where
  /-- `P_EXPAND` where it departs from the default of R57, data type `.I32`: by `cmode` and `imm8`,
  the 32-bit constant that is replicated twice. -/
  expand32 : List ((BitVec 4 × BitVec 8) × BitVec 32)
  /-- The same for data type `.I16`: the 16-bit constant that is replicated four times. -/
  expand16 : List ((BitVec 4 × BitVec 8) × BitVec 16)
  /-- `P_FETCH` where it departs from the default of R32 and R33: by its arguments, the instruction. -/
  fetchRows : List (FetchInputs × Word)
  /-- `P_SIMD_CHECK` by rows (R62). -/
  simdRows : List (SimdInputs × SimdCheck)
  /-- `P_SIMD_CHECK` for the inputs that have no row. -/
  simdOtherwise : SimdCheck
  /-- `P_UNDEF_COND_FAIL` (R93). -/
  undefCondFail : UndefCondFail
deriving DecidableEq, Repr

/-- The free choice of rule R93 under `Either`: whether the n-th UNDEFINED encoding that fails its
condition is reported as UNDEFINED (true) or is a no-op (false). No value of it is known (log 6). -/
opaque Config.undefOnFailedCondition : Nat → Bool

/-- `AdvSIMDExpandImm` on arguments no encoding of this instruction reaches (`op` not 1, `cmode`
even or `11x1`); R57 gives no body there (log 4). -/
opaque Config.expandUnreached : BitVec 1 → BitVec 4 → BitVec 8 → BitVec 64

end Sys2Proof
end

