-- ==== Sys2Proof/Machine/State.lean ====
section
/-! DEFINITION. The state of the machine (R15), the reasons a step stops, and the state after reset. -/

namespace Sys2Proof.Machine

/-- The two causes of UNDEFINED (R29): the spec's own tags. -/
inductive UndefinedCause where
  /-- A 128-bit form with an odd register number (R90). -/
  | oddQRegister
  /-- Advanced SIMD is not enabled (R91). -/
  | simdDisabled
deriving DecidableEq, Repr

/-- What the fault record of R29 holds once it is set. The meaning of an instruction records it in the
state (`State.raise`); `step` answers `.fault` with it in a state that holds one, because "A faulted
state has no further step" (R95). Safe: nothing is said of what the hardware does next (D9, D10). -/
inductive Fault where
  /-- The UNDEFINED outcome (R12, R90, R91). Raised by a meaning, answered by `step`. Safe. -/
  | undefined (cause : UndefinedCause)
  /-- Trapped to Hyp mode (R92). Raised by a meaning, answered by `step`. Safe. -/
  | hypTrap
deriving DecidableEq, Repr

/-- Why the model gives no meaning. All safe: the run ends and nothing is claimed. -/
inductive Refusal where
  /-- An instruction that has no meaning yet; only `exec` may answer it, and no arm does. Safe. -/
  | notModelled (mnemonic : String)
  /-- `step`: the word is an encoding of another instruction of the group (R49). Safe. -/
  | related
  /-- `step`: the word is not an encoding of this instruction (R50). Safe. -/
  | notVBIC
  /-- `step`: `pc` is not a multiple of 4 in A32 or of 2 in T32, a launch the spec refuses (R34). Safe. -/
  | misalignedPc
  /-- `step`: the program text has no instruction at `pc`; the run is over (R103). Safe. -/
  | noText
deriving DecidableEq, Repr

/-- The program text: the bytes that are there, by address, strictly rising (R31). An address that is
not listed holds no byte (log 2). -/
abbrev Memory := List Host.Cell

/-- The canonical form of a memory: addresses strictly rise and lie in the 32-bit space (R31). No
listed byte can equal what an unlisted address reads as, since that is no byte. -/
abbrev Memory.wf (m : Memory) : Prop :=
  m.Pairwise (fun a b => a.1 < b.1) ∧ ∀ c ∈ m, c.1 < 2 ^ 32

/-- The state of the machine: the record of rule R15, the program text (R31), the parameters of rule
R6 that the model leaves free, and a counter of free choices (the model's own). -/
structure State where
  /-- `D[0]` to `D[31]` (R16, R18). -/
  regs : Vector DWord 32
  /-- The condition flags (R20). -/
  n : Bool
  z : Bool
  c : Bool
  v : Bool
  /-- `CPSR.DIT` (R22). -/
  dit : Bool
  /-- The control registers; their width is not in the source, so each is a number (R23). -/
  cpacr : Nat
  nsacr : Nat
  hcptr : Nat
  /-- Security state and PE mode (R15, R23). -/
  securityState : SecurityState
  peMode : PEMode
  /-- The instruction-set state (R24). -/
  iset : ISet
  /-- The address of the instruction being executed (R25). -/
  pc : Addr
  /-- The condition context (R26): for each coming T32 instruction its condition, as the truth table
  over the flags that Machine/Flags reads; where the list is empty the condition is "always". -/
  condContext : List (BitVec 16)
  /-- The fault record (R29). -/
  fault : Option Fault
  /-- The read-only program text (R31, R37). -/
  text : Memory
  /-- The parameters of the run (R6). -/
  params : Params
  /-- The model's own: how many free choices of rule R93 have been taken (log 6). -/
  freeChoices : Nat
deriving DecidableEq, Repr

/-- The parameters at their defaults (R6): `P_EXPAND` the body of R57 (PRESUMED, log 4),
`P_FETCH` the little-endian layout of R32 and R33 (PRESUMED, log 3),
`P_UNDEF_COND_FAIL` `Either`; `P_SIMD_CHECK`, which has no default, answers Enabled, the premise of R104
(DESIGN CHOICE, log 5). -/
def defaultParams : Params where
  expand32 := []
  expand16 := []
  fetchRows := []
  simdRows := []
  simdOtherwise := .enabled
  undefCondFail := .either

/-- The machine right after reset. Only `fault := none` is the spec's (R28); every other value is the
model's choice (log 1, 2, 4, 5, 6, 7). -/
def State.reset : State where
  regs := Vector.replicate 32 0#64
  n := false
  z := false
  c := false
  v := false
  dit := false
  cpacr := 0
  nsacr := 0
  hcptr := 0
  securityState := ⟨0⟩
  peMode := .other 0
  iset := .a32
  pc := 0#32
  condContext := []
  fault := none
  text := []
  params := defaultParams
  freeChoices := 0

end Sys2Proof.Machine
end

