-- ==== Sys2Proof/Machine/Ops.lean ====
section
/-! DEFINITION. The named operations over the register file, the program text, the program counter and
the fault record, and the Advanced SIMD enable check. -/

namespace Sys2Proof.Machine

/-! ### SIMD&FP registers (R16) -/

/-- `D[n]`, read: the 64 bits last written (R16). -/
def State.readD (s : State) (n : RegNum) : DWord :=
  s.regs[n.toNat]'n.isLt

/-- `D[n] <- x`: all 64 bits are replaced (R16). -/
def State.writeD (s : State) (n : RegNum) (x : DWord) : State :=
  { s with regs := s.regs.set n.toNat x n.isLt }

/-- The doubleword register that is the lower half, `D[2n]`, of `Qn` (R17, R81). -/
def lowerHalf (n : BitVec 4) : RegNum :=
  (n ++ 0#1).setWidth 5

/-- The doubleword register that is the upper half, `D[2n+1]`, of `Qn` (R17). -/
def upperHalf (n : BitVec 4) : RegNum :=
  (n ++ 1#1).setWidth 5

/-- `Qn` as 128 bits, `D[2n+1] : D[2n]` (R17; which half is which is PRESUMED, log 13). -/
def State.readQ (s : State) (n : BitVec 4) : BitVec 128 :=
  (s.readD (upperHalf n) ++ s.readD (lowerHalf n)).setWidth 128

/-! ### Program text (R31) -/

/-- The byte at an address, if the text has one there. -/
def Memory.read : Memory → Nat → Option Byte
  | [], _ => none
  | (a, b) :: rest, k => if k = a then some b else Memory.read rest k

/-- Put a byte at an address, keeping the addresses rising. No instruction does this (R30); it stands
for loading the program text (log 2). -/
def Memory.write : Memory → Nat → Byte → Memory
  | [], k, x => [(k, x)]
  | (a, b) :: rest, k, x =>
    if k < a then (k, x) :: (a, b) :: rest
    else if k = a then (k, x) :: rest
    else (a, b) :: Memory.write rest k x

/-- The byte of program text at a 32-bit address. -/
def State.textByte (s : State) (a : Addr) : Option Byte :=
  s.text.read a.toNat

/-! ### Program counter (R25) -/

/-- `pc <- pc + 4`, modulo 2^32 (R25). -/
def State.advancePc (s : State) : State :=
  { s with pc := s.pc + 4#32 }

/-! ### Taking an exception (R95)

The spec describes no entry: no saved register, vector or mode change (R96). What it gives is the fault
record of R29. There is no return from it (R97). -/

/-- `fault <- r`, everything else exactly as before the instruction (R95). -/
def State.raise (r : Fault) (s : State) : State :=
  { s with fault := some r }

/-! ### The Advanced SIMD enable check (R62) -/

/-- What `P_SIMD_CHECK` looks at (R23). -/
def State.simdInputs (s : State) : SimdInputs where
  cpacr := s.cpacr
  nsacr := s.nsacr
  hcptr := s.hcptr
  securityState := s.securityState
  peMode := s.peMode
  pc := s.pc

/-- A function given by rows: the first row of the key, or the given value. -/
def lookupOr {κ ν : Type} [DecidableEq κ] (rows : List (κ × ν)) (k : κ) (otherwise : ν) : ν :=
  match rows with
  | [] => otherwise
  | (a, x) :: rest => if k = a then x else lookupOr rest k otherwise

/-- `CheckAdvSIMDEnabled()`: `P_SIMD_CHECK` of this state (R62). -/
def State.simdCheck (s : State) : SimdCheck :=
  lookupOr s.params.simdRows s.simdInputs s.params.simdOtherwise

end Sys2Proof.Machine
end

