-- ==== Sys2Proof/Syntax.lean ====
section
/-! DEFINITION. The instructions: one constructor per row of spec/opcode_table.json. -/

namespace Sys2Proof

/-- VBIC (immediate) in its eight encodings (R2), and the four UNDEFINED odd-register subspaces of the
128-bit encodings (R47, R55). `d` is `D:Vd` (R44), `cmode` the field of that name (R45) and `imm8` is
`i:imm3:imm4` (R43). Which values a row admits is in WellFormed. -/
inductive Instr where
  /-- `VBIC_i_A1_D` (R64). -/
  | vbicA1D (d : RegNum) (cmode : BitVec 4) (imm8 : BitVec 8)
  /-- `VBIC_i_A1_Q` (R65). -/
  | vbicA1Q (d : RegNum) (cmode : BitVec 4) (imm8 : BitVec 8)
  /-- `VBIC_i_A2_D` (R66). -/
  | vbicA2D (d : RegNum) (cmode : BitVec 4) (imm8 : BitVec 8)
  /-- `VBIC_i_A2_Q` (R67). -/
  | vbicA2Q (d : RegNum) (cmode : BitVec 4) (imm8 : BitVec 8)
  /-- `VBIC_i_T1_D` (R68). -/
  | vbicT1D (d : RegNum) (cmode : BitVec 4) (imm8 : BitVec 8)
  /-- `VBIC_i_T1_Q` (R69). -/
  | vbicT1Q (d : RegNum) (cmode : BitVec 4) (imm8 : BitVec 8)
  /-- `VBIC_i_T2_D` (R70). -/
  | vbicT2D (d : RegNum) (cmode : BitVec 4) (imm8 : BitVec 8)
  /-- `VBIC_i_T2_Q` (R71). -/
  | vbicT2Q (d : RegNum) (cmode : BitVec 4) (imm8 : BitVec 8)
  /-- `VBIC_i_A1_Q with Vd<0> == 1` (R90). -/
  | undefinedA1Q (d : RegNum) (cmode : BitVec 4) (imm8 : BitVec 8)
  /-- `VBIC_i_A2_Q with Vd<0> == 1` (R90). -/
  | undefinedA2Q (d : RegNum) (cmode : BitVec 4) (imm8 : BitVec 8)
  /-- `VBIC_i_T1_Q with Vd<0> == 1` (R90). -/
  | undefinedT1Q (d : RegNum) (cmode : BitVec 4) (imm8 : BitVec 8)
  /-- `VBIC_i_T2_Q with Vd<0> == 1` (R90). -/
  | undefinedT2Q (d : RegNum) (cmode : BitVec 4) (imm8 : BitVec 8)
deriving DecidableEq, Repr

end Sys2Proof
end

