-- ==== Sys2Proof/WellFormed.lean ====
section
/-! DEFINITION. Which instruction terms are instructions of the hardware. -/

namespace Sys2Proof

/-- `cmode` is `0xx1`: class A1 or T1, data type `.I32` (R45). -/
def isClass1 (cmode : BitVec 4) : Bool :=
  cmode.getLsbD 0 && !cmode.getLsbD 3

/-- `cmode` is `10x1`: class A2 or T2, data type `.I16` (R45). -/
def isClass2 (cmode : BitVec 4) : Bool :=
  cmode.getLsbD 0 && cmode.getLsbD 3 && !cmode.getLsbD 2

/-- The register number is even, as a 128-bit encoding must have it (R47). `d<0>` is `Vd<0>`. -/
def isEvenReg (d : RegNum) : Bool :=
  !d.getLsbD 0

/-- The operands lie in the row the constructor stands for. Every register number is legal in a
64-bit form, every `imm8` in every form (R18, R51). -/
def wellFormed : Instr → Bool
  | .vbicA1D _ cmode _ => isClass1 cmode
  | .vbicA1Q d cmode _ => isClass1 cmode && isEvenReg d
  | .vbicA2D _ cmode _ => isClass2 cmode
  | .vbicA2Q d cmode _ => isClass2 cmode && isEvenReg d
  | .vbicT1D _ cmode _ => isClass1 cmode
  | .vbicT1Q d cmode _ => isClass1 cmode && isEvenReg d
  | .vbicT2D _ cmode _ => isClass2 cmode
  | .vbicT2Q d cmode _ => isClass2 cmode && isEvenReg d
  | .undefinedA1Q d cmode _ => isClass1 cmode && !isEvenReg d
  | .undefinedA2Q d cmode _ => isClass2 cmode && !isEvenReg d
  | .undefinedT1Q d cmode _ => isClass1 cmode && !isEvenReg d
  | .undefinedT2Q d cmode _ => isClass2 cmode && !isEvenReg d

end Sys2Proof
end

