-- ==== Sys2Proof/Machine/Operands.lean ====
section
/-! DEFINITION. The expanded immediate (R57), the registers an instruction operates on (R44), and the
operation on one of them (R59). -/

namespace Sys2Proof.Machine

/-- The 32-bit constant of the default `P_EXPAND` for `cmode = 0xx1` (R57; PRESUMED, log 4). -/
def defaultElement32 (cmode : BitVec 4) (imm8 : BitVec 8) : BitVec 32 :=
  if cmode.extractLsb' 1 2 = 0b00#2 then (0#24 ++ imm8).setWidth 32
  else if cmode.extractLsb' 1 2 = 0b01#2 then (0#16 ++ imm8 ++ 0#8).setWidth 32
  else if cmode.extractLsb' 1 2 = 0b10#2 then (0#8 ++ imm8 ++ 0#16).setWidth 32
  else (imm8 ++ 0#24).setWidth 32

/-- The 16-bit constant of the default `P_EXPAND` for `cmode = 10x1` (R57; PRESUMED, log 4). -/
def defaultElement16 (cmode : BitVec 4) (imm8 : BitVec 8) : BitVec 16 :=
  if cmode.getLsbD 1 then (imm8 ++ 0#8).setWidth 16 else (0#8 ++ imm8).setWidth 16

/-- `AdvSIMDExpandImm(op, cmode, imm8)`, the parameter `P_EXPAND` (R57): for `.I32` a 32-bit constant
repeated twice, for `.I16` a 16-bit constant repeated four times. -/
def advSIMDExpandImm (p : Params) (op : BitVec 1) (cmode : BitVec 4) (imm8 : BitVec 8) : DWord :=
  if op = 1#1 && isClass1 cmode then
    let e := lookupOr p.expand32 (cmode, imm8) (defaultElement32 cmode imm8)
    (e ++ e).setWidth 64
  else if op = 1#1 && isClass2 cmode then
    let e := lookupOr p.expand16 (cmode, imm8) (defaultElement16 cmode imm8)
    (e ++ e ++ e ++ e).setWidth 64
  else Config.expandUnreached op cmode imm8

/-- `imm64` of an instruction (R43, R58). -/
def State.imm64 (s : State) (cmode : BitVec 4) (imm8 : BitVec 8) : DWord :=
  advSIMDExpandImm s.params 1#1 cmode imm8

/-- `regs = if Q == '0' then 1 else 2` (R44). -/
def regsOf (q : Bool) : Nat :=
  if q then 2 else 1

/-- `x AND NOT(m)` (R59, R72). -/
def bitClear (x m : DWord) : DWord :=
  x &&& ~~~m

/-- `for r = 0 to regs-1: D[d+r] <- D[d+r] AND NOT(imm64)`, in ascending order (R59). -/
def State.clearRegs (imm64 : DWord) : Nat → RegNum → State → State
  | 0, _, s => s
  | k + 1, d, s => State.clearRegs imm64 k (d + 1#5) (s.writeD d (bitClear (s.readD d) imm64))

end Sys2Proof.Machine
end

