-- ==== Sys2Proof/Machine/Flags.lean ====
section
/-! DEFINITION. The condition check, the one thing that reads the flags. No instruction computes or
writes a flag (R20, R75). -/

namespace Sys2Proof.Machine

/-- The place of the flags' values in a truth table: the number `N:Z:C:V`, 0 to 15. The order is the
model's own; it names no place in a status register (R20, log 7). -/
def State.flagsIndex (s : State) : Nat :=
  8 * s.n.toNat + 4 * s.z.toNat + 2 * s.c.toNat + s.v.toNat

/-- `ConditionPassed()`, the parameter `P_COND` (R60): always true in A32; in T32 the condition the
context holds for this instruction, tested against the flags. -/
def State.conditionPassed (s : State) : Bool :=
  match s.iset with
  | .a32 => true
  | .t32 =>
    match s.condContext with
    | [] => true
    | table :: _ => table.getLsbD s.flagsIndex

/-- "advance cond_context": a no-op in A32 (R26, R63). -/
def State.advanceCond (s : State) : State :=
  match s.iset with
  | .a32 => s
  | .t32 => { s with condContext := s.condContext.tail }

/-- The end of an instruction that completes, whether its condition passed or failed (R25, R63). -/
def State.complete (s : State) : State :=
  s.advancePc.advanceCond

end Sys2Proof.Machine
end

