-- ==== Sys2Proof/Machine/Undefined.lean ====
section
/-! DEFINITION. The UNDEFINED odd-register subspaces of the four 128-bit encodings (R47, R90, R93). -/

namespace Sys2Proof.Machine

/-- An UNDEFINED encoding whose condition fails is a no-op here, by a free choice, which is counted. -/
def State.completeByChoice (s : State) : State :=
  { s.complete with freeChoices := s.freeChoices + 1 }

/-- A 128-bit form with an odd register number whose condition fails: the parameter
`P_UNDEF_COND_FAIL`, both outcomes admitted under `Either` (R93, log 6). -/
def oddQConditionFailed (s : State) : State :=
  match s.params.undefCondFail with
  | .nop => s.complete
  | .undefined => s.raise (.undefined .oddQRegister)
  | .either =>
    if Config.undefOnFailedCondition s.freeChoices then s.raise (.undefined .oddQRegister)
    else s.completeByChoice

/-- A 128-bit form with an odd register number: the condition check, then UNDEFINED, before the
Advanced SIMD enable check (R61, R90, R93, R94). -/
def oddQRegister (s : State) : Host.Outcome State Fault Refusal :=
  .next (if s.conditionPassed then s.raise (.undefined .oddQRegister) else oddQConditionFailed s)

/-- `VBIC_i_A1_Q` with `Vd<0> == 1` (R90). -/
def execUndefinedA1Q (s : State) : Host.Outcome State Fault Refusal :=
  oddQRegister s

/-- `VBIC_i_A2_Q` with `Vd<0> == 1` (R90). -/
def execUndefinedA2Q (s : State) : Host.Outcome State Fault Refusal :=
  oddQRegister s

/-- `VBIC_i_T1_Q` with `Vd<0> == 1` (R90). -/
def execUndefinedT1Q (s : State) : Host.Outcome State Fault Refusal :=
  oddQRegister s

/-- `VBIC_i_T2_Q` with `Vd<0> == 1` (R90). -/
def execUndefinedT2Q (s : State) : Host.Outcome State Fault Refusal :=
  oddQRegister s

end Sys2Proof.Machine
end

