-- ==== Sys2Proof/Machine/Vbic.lean ====
section
/-! DEFINITION. The meaning of VBIC (immediate) in its eight encodings (R59, R63, R64 to R71). -/

namespace Sys2Proof.Machine

/-- The registers of the operand after the operation (R59). -/
def State.clearOperand (s : State) (q : Bool) (d : RegNum) (cmode : BitVec 4) (imm8 : BitVec 8) :
    State :=
  s.clearRegs (s.imm64 cmode imm8) (regsOf q) d

/-- The part of the operation under `if ConditionPassed()` once the decode has not raised: the Advanced
SIMD enable check, then the register writes (R59, R62, R94). -/
def vbicEnabledPart (q : Bool) (d : RegNum) (cmode : BitVec 4) (imm8 : BitVec 8) (s : State) : State :=
  match s.simdCheck with
  | .undefined => s.raise (.undefined .simdDisabled)
  | .hypTrap => s.raise .hypTrap
  | .enabled => (s.clearOperand q d cmode imm8).complete

/-- The operation shared by the eight encodings (R63; order of the checks: log 14): the odd-register form,
the condition check, then `vbicEnabledPart`. An instruction whose condition fails is a no-op that completes. -/
def vbicImmediate (q : Bool) (d : RegNum) (cmode : BitVec 4) (imm8 : BitVec 8) (s : State) :
    Host.Outcome State Fault Refusal :=
  if q && !isEvenReg d then oddQRegister s
  else .next (if s.conditionPassed then vbicEnabledPart q d cmode imm8 s else s.complete)

/-- `VBIC_i_A1_D` (R64). -/
def execVbicA1D (d : RegNum) (cmode : BitVec 4) (imm8 : BitVec 8) (s : State) :
    Host.Outcome State Fault Refusal :=
  vbicImmediate false d cmode imm8 s

/-- `VBIC_i_A1_Q` (R65). -/
def execVbicA1Q (d : RegNum) (cmode : BitVec 4) (imm8 : BitVec 8) (s : State) :
    Host.Outcome State Fault Refusal :=
  vbicImmediate true d cmode imm8 s

/-- `VBIC_i_A2_D` (R66). -/
def execVbicA2D (d : RegNum) (cmode : BitVec 4) (imm8 : BitVec 8) (s : State) :
    Host.Outcome State Fault Refusal :=
  vbicImmediate false d cmode imm8 s

/-- `VBIC_i_A2_Q` (R67). -/
def execVbicA2Q (d : RegNum) (cmode : BitVec 4) (imm8 : BitVec 8) (s : State) :
    Host.Outcome State Fault Refusal :=
  vbicImmediate true d cmode imm8 s

/-- `VBIC_i_T1_D` (R68). -/
def execVbicT1D (d : RegNum) (cmode : BitVec 4) (imm8 : BitVec 8) (s : State) :
    Host.Outcome State Fault Refusal :=
  vbicImmediate false d cmode imm8 s

/-- `VBIC_i_T1_Q` (R69). -/
def execVbicT1Q (d : RegNum) (cmode : BitVec 4) (imm8 : BitVec 8) (s : State) :
    Host.Outcome State Fault Refusal :=
  vbicImmediate true d cmode imm8 s

/-- `VBIC_i_T2_D` (R70). -/
def execVbicT2D (d : RegNum) (cmode : BitVec 4) (imm8 : BitVec 8) (s : State) :
    Host.Outcome State Fault Refusal :=
  vbicImmediate false d cmode imm8 s

/-- `VBIC_i_T2_Q` (R71). -/
def execVbicT2Q (d : RegNum) (cmode : BitVec 4) (imm8 : BitVec 8) (s : State) :
    Host.Outcome State Fault Refusal :=
  vbicImmediate true d cmode imm8 s

end Sys2Proof.Machine
end

