-- ==== Sys2Proof/Machine/Dispatch.lean ====
section
/-! DEFINITION. The dispatch from an instruction to its meaning. -/

namespace Sys2Proof.Machine

/-- The meaning of an instruction. `step` runs it in a state that holds no fault, and only for an
instruction decoded in the state's own instruction set (log 15). -/
def exec (i : Instr) (s : State) : Host.Outcome State Fault Refusal :=
  match i with
  | .vbicA1D d cmode imm8 => Sys2Proof.Machine.execVbicA1D d cmode imm8 s
  | .vbicA1Q d cmode imm8 => Sys2Proof.Machine.execVbicA1Q d cmode imm8 s
  | .vbicA2D d cmode imm8 => Sys2Proof.Machine.execVbicA2D d cmode imm8 s
  | .vbicA2Q d cmode imm8 => Sys2Proof.Machine.execVbicA2Q d cmode imm8 s
  | .vbicT1D d cmode imm8 => Sys2Proof.Machine.execVbicT1D d cmode imm8 s
  | .vbicT1Q d cmode imm8 => Sys2Proof.Machine.execVbicT1Q d cmode imm8 s
  | .vbicT2D d cmode imm8 => Sys2Proof.Machine.execVbicT2D d cmode imm8 s
  | .vbicT2Q d cmode imm8 => Sys2Proof.Machine.execVbicT2Q d cmode imm8 s
  | .undefinedA1Q _ _ _ => Sys2Proof.Machine.execUndefinedA1Q s
  | .undefinedA2Q _ _ _ => Sys2Proof.Machine.execUndefinedA2Q s
  | .undefinedT1Q _ _ _ => Sys2Proof.Machine.execUndefinedT1Q s
  | .undefinedT2Q _ _ _ => Sys2Proof.Machine.execUndefinedT2Q s

end Sys2Proof.Machine
end

