-- ==== Sys2Proof/Decode.lean ====
section
/-! DEFINITION. The decoder, total and rejecting by name (R48); the encoder (R39, R40); the opcode
table's masks (R48, R55); and how an instruction lies in memory, the default `P_FETCH` (R32, R33).
A concatenation is followed by `setWidth` to its own width, so that its type is written as one number. -/

namespace Sys2Proof

/-- The outcomes of the decoder (R48). Its `raise Undefined(OddQRegister)` is the instruction of an
UNDEFINED row, because the raise takes effect after the condition check (R61, R93). -/
inductive Decoded where
  /-- An encoding of VBIC (immediate), or of one of its UNDEFINED subspaces. -/
  | instr (i : Instr)
  /-- `SEE "Related encodings"`: another instruction of the group (R13, R49). -/
  | related
  /-- Not an encoding of this instruction (R50). -/
  | notVBIC
deriving DecidableEq, Repr

/-- The constant bits other than `cmode` and `Q` (R46, R48). -/
def groupMask : ISet → Word
  | .a32 => 0xFEB800B0#32
  | .t32 => 0xEFB800B0#32

/-- The values of those bits (R46, R48). -/
def groupMatch : ISet → Word
  | .a32 => 0xF2800030#32
  | .t32 => 0xEF800030#32

/-- The first test of the decoder (R48). -/
def inGroup (iset : ISet) (w : Word) : Bool :=
  w &&& groupMask iset == groupMatch iset

/-- `cmode`, bits 11:8 (R39, R40). -/
def cmodeField (w : Word) : BitVec 4 :=
  w.extractLsb' 8 4

/-- `D:Vd`, bit 22 and bits 15:12 (R44). -/
def regField (w : Word) : RegNum :=
  (w.extractLsb' 22 1 ++ w.extractLsb' 12 4).setWidth 5

/-- `i:imm3:imm4`, bit 24 (A32) or 28 (T32), bits 18:16 and bits 3:0 (R43). -/
def imm8Field (iset : ISet) (w : Word) : BitVec 8 :=
  match iset with
  | .a32 => (w.extractLsb' 24 1 ++ w.extractLsb' 16 3 ++ w.extractLsb' 0 4).setWidth 8
  | .t32 => (w.extractLsb' 28 1 ++ w.extractLsb' 16 3 ++ w.extractLsb' 0 4).setWidth 8

/-- The `SEE "Related encodings"` test, `cmode<0> == '0' || cmode<3:2> == '11'` (R45, R49). -/
def seeRelated (cmode : BitVec 4) : Bool :=
  !cmode.getLsbD 0 || (cmode.getLsbD 3 && cmode.getLsbD 2)

/-- The row of the table an encoding belongs to: instruction set, class 2 or 1, `Q`, and for `Q = 1`
whether the register number is odd (R45, R47). -/
def instrOfFields (iset : ISet) (q : Bool) (d : RegNum) (cmode : BitVec 4) (imm8 : BitVec 8) : Instr :=
  match iset, cmode.getLsbD 3, q, isEvenReg d with
  | .a32, false, false, _ => .vbicA1D d cmode imm8
  | .a32, false, true, true => .vbicA1Q d cmode imm8
  | .a32, false, true, false => .undefinedA1Q d cmode imm8
  | .a32, true, false, _ => .vbicA2D d cmode imm8
  | .a32, true, true, true => .vbicA2Q d cmode imm8
  | .a32, true, true, false => .undefinedA2Q d cmode imm8
  | .t32, false, false, _ => .vbicT1D d cmode imm8
  | .t32, false, true, true => .vbicT1Q d cmode imm8
  | .t32, false, true, false => .undefinedT1Q d cmode imm8
  | .t32, true, false, _ => .vbicT2D d cmode imm8
  | .t32, true, true, true => .vbicT2Q d cmode imm8
  | .t32, true, true, false => .undefinedT2Q d cmode imm8

/-- The decoder of rule R48, up to the expansion of the immediate, which is part of the meaning. -/
def decode (iset : ISet) (w : Word) : Decoded :=
  if inGroup iset w then
    if seeRelated (cmodeField w) then .related
    else .instr (instrOfFields iset (w.getLsbD 6) (regField w) (cmodeField w) (imm8Field iset w))
  else .notVBIC

/-! ### The fields of an instruction -/

/-- The instruction set an instruction is encoded in (R2). -/
def Instr.iset : Instr → ISet
  | .vbicA1D .. | .vbicA1Q .. | .vbicA2D .. | .vbicA2Q .. => .a32
  | .undefinedA1Q .. | .undefinedA2Q .. => .a32
  | .vbicT1D .. | .vbicT1Q .. | .vbicT2D .. | .vbicT2Q .. => .t32
  | .undefinedT1Q .. | .undefinedT2Q .. => .t32

/-- The field `Q` (R42): the 128-bit forms, with their UNDEFINED subspaces. -/
def Instr.isQ : Instr → Bool
  | .vbicA1D .. | .vbicA2D .. | .vbicT1D .. | .vbicT2D .. => false
  | .vbicA1Q .. | .vbicA2Q .. | .vbicT1Q .. | .vbicT2Q .. => true
  | .undefinedA1Q .. | .undefinedA2Q .. | .undefinedT1Q .. | .undefinedT2Q .. => true

/-- The instruction is of an UNDEFINED subspace (R47, R55). -/
def Instr.isUndefined : Instr → Bool
  | .vbicA1D .. | .vbicA1Q .. | .vbicA2D .. | .vbicA2Q .. => false
  | .vbicT1D .. | .vbicT1Q .. | .vbicT2D .. | .vbicT2Q .. => false
  | .undefinedA1Q .. | .undefinedA2Q .. | .undefinedT1Q .. | .undefinedT2Q .. => true

/-- Class A2 or T2, data type `.I16`; otherwise A1 or T1, `.I32` (R45). -/
def Instr.inClass2 : Instr → Bool
  | .vbicA1D .. | .vbicA1Q .. | .vbicT1D .. | .vbicT1Q .. => false
  | .undefinedA1Q .. | .undefinedT1Q .. => false
  | .vbicA2D .. | .vbicA2Q .. | .vbicT2D .. | .vbicT2Q .. => true
  | .undefinedA2Q .. | .undefinedT2Q .. => true

/-- `D:Vd` (R44). -/
def Instr.reg : Instr → RegNum
  | .vbicA1D d _ _ | .vbicA1Q d _ _ | .vbicA2D d _ _ | .vbicA2Q d _ _ => d
  | .vbicT1D d _ _ | .vbicT1Q d _ _ | .vbicT2D d _ _ | .vbicT2Q d _ _ => d
  | .undefinedA1Q d _ _ | .undefinedA2Q d _ _ | .undefinedT1Q d _ _ | .undefinedT2Q d _ _ => d

/-- `cmode` (R42). -/
def Instr.cmode : Instr → BitVec 4
  | .vbicA1D _ c _ | .vbicA1Q _ c _ | .vbicA2D _ c _ | .vbicA2Q _ c _ => c
  | .vbicT1D _ c _ | .vbicT1Q _ c _ | .vbicT2D _ c _ | .vbicT2Q _ c _ => c
  | .undefinedA1Q _ c _ | .undefinedA2Q _ c _ | .undefinedT1Q _ c _ | .undefinedT2Q _ c _ => c

/-- `i:imm3:imm4` (R43). -/
def Instr.imm8 : Instr → BitVec 8
  | .vbicA1D _ _ b | .vbicA1Q _ _ b | .vbicA2D _ _ b | .vbicA2Q _ _ b => b
  | .vbicT1D _ _ b | .vbicT1Q _ _ b | .vbicT2D _ _ b | .vbicT2Q _ _ b => b
  | .undefinedA1Q _ _ b | .undefinedA2Q _ _ b | .undefinedT1Q _ _ b | .undefinedT2Q _ _ b => b

/-! ### The encoder -/

/-- The register diagrams of A1 and A2 (R39) and of T1 and T2 (R40), most significant field first. -/
def encodeFields (iset : ISet) (q : Bool) (d : RegNum) (cmode : BitVec 4) (imm8 : BitVec 8) : Word :=
  let i := imm8.extractLsb' 7 1
  let imm3 := imm8.extractLsb' 4 3
  let imm4 := imm8.extractLsb' 0 4
  let dBit := d.extractLsb' 4 1
  let vd := d.extractLsb' 0 4
  match iset with
  | .a32 =>
    (0b1111001#7 ++ i ++ 1#1 ++ dBit ++ 0b000#3 ++ imm3 ++ vd ++ cmode ++ 0#1 ++ BitVec.ofBool q
      ++ 1#1 ++ 1#1 ++ imm4).setWidth 32
  | .t32 =>
    (0b111#3 ++ i ++ 0b11111#5 ++ dBit ++ 0b000#3 ++ imm3 ++ vd ++ cmode ++ 0#1 ++ BitVec.ofBool q
      ++ 1#1 ++ 1#1 ++ imm4).setWidth 32

/-- The instruction word of an instruction (R39, R40). -/
def encode (i : Instr) : Word :=
  encodeFields i.iset i.isQ i.reg i.cmode i.imm8

/-! ### The opcode table -/

/-- A row of spec/opcode_table.json: a word of the instruction set matches it when
`(instr AND mask) == match` (R48, R55). -/
structure TableRow where
  iset : ISet
  mask : Word
  matchValue : Word
deriving DecidableEq, Repr

/-- A word matches a row of the table (R48). -/
def TableRow.matchesWord (r : TableRow) (w : Word) : Bool :=
  w &&& r.mask == r.matchValue

/-- The row an instruction belongs to (R48 for the eight encodings, R55 for the UNDEFINED rows). -/
def Instr.row : Instr → TableRow
  | .vbicA1D .. => ⟨.a32, 0xFEB809F0#32, 0xF2800130#32⟩
  | .vbicA1Q .. => ⟨.a32, 0xFEB809F0#32, 0xF2800170#32⟩
  | .vbicA2D .. => ⟨.a32, 0xFEB80DF0#32, 0xF2800930#32⟩
  | .vbicA2Q .. => ⟨.a32, 0xFEB80DF0#32, 0xF2800970#32⟩
  | .vbicT1D .. => ⟨.t32, 0xEFB809F0#32, 0xEF800130#32⟩
  | .vbicT1Q .. => ⟨.t32, 0xEFB809F0#32, 0xEF800170#32⟩
  | .vbicT2D .. => ⟨.t32, 0xEFB80DF0#32, 0xEF800930#32⟩
  | .vbicT2Q .. => ⟨.t32, 0xEFB80DF0#32, 0xEF800970#32⟩
  | .undefinedA1Q .. => ⟨.a32, 0xFEB819F0#32, 0xF2801170#32⟩
  | .undefinedA2Q .. => ⟨.a32, 0xFEB81DF0#32, 0xF2801970#32⟩
  | .undefinedT1Q .. => ⟨.t32, 0xEFB819F0#32, 0xEF801170#32⟩
  | .undefinedT2Q .. => ⟨.t32, 0xEFB81DF0#32, 0xEF801970#32⟩

/-! ### How an instruction lies in memory (the default of `P_FETCH`; PRESUMED, log 3) -/

/-- The instruction whose bytes at rising addresses are `b0` to `b3`: one little-endian word in A32
(R32), two little-endian halfwords, `hw1` first, in T32 (R33). -/
def wordOfBytes (iset : ISet) (b0 b1 b2 b3 : Byte) : Word :=
  match iset with
  | .a32 => (b3 ++ b2 ++ b1 ++ b0).setWidth 32
  | .t32 => (b1 ++ b0 ++ b3 ++ b2).setWidth 32

/-- The byte of an instruction that lies `k` above its address, `k` from 0 to 3 (R32, R33). -/
def wordByte (iset : ISet) (w : Word) (k : Nat) : Byte :=
  match iset with
  | .a32 => w.extractLsb' (8 * k) 8
  | .t32 => w.extractLsb' (8 * (if k < 2 then k + 2 else k - 2)) 8

/-- The instruction set whose group (R48) a word belongs to. No word belongs to both: bits 27:25 are
`001` in A32 and `111` in T32 (R41). -/
def isetOfWord (w : Word) : Option ISet :=
  if inGroup .a32 w then some .a32
  else if inGroup .t32 w then some .t32
  else none

/-- The word the host names by `nbits` and `w`: the bits of `w` below `nbits`, the rest 0. -/
def tableWord (nbits w : Nat) : Word :=
  BitVec.ofNat 32 (w % 2 ^ nbits)

/-- The instruction the decoder reads from a word of the opcode table, laid out in memory and read
back. The table numbers the bits of a T32 row as `hw1:hw2` (R40, R55). The instruction set is the one
whose group the word belongs to; a word of neither is refused in both. -/
def decodeTableWord (nbits w : Nat) : Option Instr :=
  let v := tableWord nbits w
  let iset := (isetOfWord v).getD .a32
  match decode iset (wordOfBytes iset (wordByte iset v 0) (wordByte iset v 1)
      (wordByte iset v 2) (wordByte iset v 3)) with
  | .instr i => some i
  | .related => none
  | .notVBIC => none

end Sys2Proof
end

