-- ==== Sys2Proof/Machine/Fetch.lean ====
section
/-! DEFINITION. Instruction fetch (R32 to R34) and the loading of one instruction for the host. -/

namespace Sys2Proof.Machine

/-- `pc` is a multiple of 4 in A32 and of 2 in T32 (R34). -/
def State.aligned (s : State) : Bool :=
  match s.iset with
  | .a32 => s.pc.toNat % 4 == 0
  | .t32 => s.pc.toNat % 2 == 0

/-- What `P_FETCH` is applied to in a state (R63). -/
def State.fetchInputs (s : State) : FetchInputs where
  text := s.text
  pc := s.pc
  iset := s.iset

/-- `P_FETCH(text, pc, iset)` (R6, R32, R33), `b0` to `b3` being the bytes that lie at `pc` and after it: any
function of its arguments, and the default layout where it has no row. -/
def fetchWord (p : Params) (inputs : FetchInputs) (b0 b1 b2 b3 : Byte) : Word :=
  lookupOr p.fetchRows inputs (wordOfBytes inputs.iset b0 b1 b2 b3)

/-- The instruction at `pc` (R63), if the text has all four of its bytes (R38, R103). -/
def State.fetch (s : State) : Option Word :=
  match s.textByte s.pc, s.textByte (s.pc + 1#32), s.textByte (s.pc + 2#32),
      s.textByte (s.pc + 3#32) with
  | some b0, some b1, some b2, some b3 => some (fetchWord s.params s.fetchInputs b0 b1 b2 b3)
  | _, _, _, _ => none

/-- Store the four bytes of an instruction at an address, in the default layout (R32, R33). -/
def storeWord (iset : ISet) (w : Word) (a : Addr) (m : Memory) : Memory :=
  (((m.write a.toNat (wordByte iset w 0)).write (a + 1#32).toNat (wordByte iset w 1)).write
    (a + 2#32).toNat (wordByte iset w 2)).write (a + 3#32).toNat (wordByte iset w 3)

/-- `P_FETCH` with the default layout at one argument, and as it was at every other. -/
def defaultFetchAt (inputs : FetchInputs) (p : Params) : Params :=
  { p with fetchRows := p.fetchRows.filter (fun row => row.1 ≠ inputs) }

/-- Load an instruction where the next step fetches. The instruction-set state becomes the one whose
group the word belongs to; a word of neither leaves it as it is. The bytes are stored in the default layout,
so `P_FETCH` takes its default for this fetch (log 2). -/
def State.loadWord (s : State) (w : Word) : State :=
  let iset := (isetOfWord w).getD s.iset
  let text := storeWord iset w s.pc s.text
  { s with iset := iset, text := text, params := defaultFetchAt ⟨text, s.pc, iset⟩ s.params }

end Sys2Proof.Machine
end

