-- ==== Sys2Proof/Machine/Step.lean ====
section
/-! DEFINITION. The step of the machine (R63). -/

namespace Sys2Proof.Machine

/-- What the decoder's answer does (R48 to R50). -/
def runDecoded (r : Decoded) (s : State) : Host.Outcome State Fault Refusal :=
  match r with
  | .instr i => exec i s
  | .related => .refused .related
  | .notVBIC => .refused .notVBIC

/-- One step (R63): a faulted state has none (R95); then the alignment of `pc` (R34), fetch, decode and
the instruction's meaning. -/
def step (s : State) : Host.Outcome State Fault Refusal :=
  match s.fault with
  | some r => .fault r
  | none =>
    if s.aligned then
      match s.fetch with
      | some w => runDecoded (decode s.iset w) s
      | none => .refused .noText
    else .refused .misalignedPc

/-- The state with an instruction of the opcode table stored where `step` fetches next (log 2). -/
def State.withFetchWord (s : State) (nbits w : Nat) : State :=
  s.loadWord (tableWord nbits w)

end Sys2Proof.Machine
end

