-- ==== Sys2Proof/Machine/Asm.lean ====
section
/-! DEFINITION. Assembler lines and the instructions they may assemble to (R76 to R84, R89), and
disassembly (R87). A line is given parsed: its spelling (R88) and the alias VAND (R86) are not modelled.
Nothing of the machine's step depends on this file (D22). -/

namespace Sys2Proof.Machine

/-- The assembler data types: I16 and I32, and the pseudo-instruction types (R76, R84). -/
inductive DataType where
  | i8
  | i16
  | i32
  | i64
  | f32
deriving DecidableEq, Repr

/-- A register name, `Dn` (R80) or `Qn` (R81). -/
inductive AsmReg where
  | d (n : BitVec 5)
  | q (n : BitVec 4)
deriving DecidableEq, Repr

/-- The width qualifier `<q>` (R79; its two values are PRESUMED, log 12). -/
inductive WidthQualifier where
  | narrow
  | wide
deriving DecidableEq, Repr

/-- A line `VBIC<c><q>.<dt> <Rd>, <Rd>, #<imm>` of the templates of R76. The mode of the assembler is
part of it; `conditional` says that `<c>` is written and is not "always"; `first` is the optional first
spelling of the register (R82); `imm` is the constant in the low bits of 64. -/
structure AsmLine where
  iset : ISet
  conditional : Bool
  width : Option WidthQualifier
  dtype : DataType
  first : Option AsmReg
  reg : AsmReg
  imm : BitVec 64
deriving DecidableEq, Repr

/-- The element size of a data type, in bits (R84). -/
def DataType.bits : DataType → Nat
  | .i8 => 8
  | .i16 => 16
  | .i32 => 32
  | .i64 => 64
  | .f32 => 32

/-- The written constant repeated to 64 bits at its own element size (R83, R84). -/
def DataType.pattern (t : DataType) (imm : BitVec 64) : BitVec 64 :=
  match t with
  | .i8 => (BitVec.replicate 8 (imm.extractLsb' 0 8)).setWidth 64
  | .i16 => (BitVec.replicate 4 (imm.extractLsb' 0 16)).setWidth 64
  | .i32 => (BitVec.replicate 2 (imm.extractLsb' 0 32)).setWidth 64
  | .i64 => imm
  | .f32 => (BitVec.replicate 2 (imm.extractLsb' 0 32)).setWidth 64

/-- The values of `cmode` of a class (R45). -/
def classCmodes (class2 : Bool) : List (BitVec 4) :=
  if class2 then [0b1001#4, 0b1011#4] else [0b0001#4, 0b0011#4, 0b0101#4, 0b0111#4]

/-- Some encoding of the class gives this pattern as its `imm64`, the expansion being `p`'s (R83). -/
def classGives (p : Params) (class2 : Bool) (pattern : BitVec 64) : Bool :=
  (classCmodes class2).any fun cmode =>
    (List.range 256).any fun b => advSIMDExpandImm p 1#1 cmode (BitVec.ofNat 8 b) == pattern

/-- Which classes a pattern written with a data type may be encoded in. I32 is only A1 or T1, I16 only A2
or T2 (R77). A pseudo data type may be in whichever class gives the pattern (R84); where both do, R84's
table has I8 expand to `VBIC.I16` and F32 to `VBIC.I32`, and leaves I64 either (log 12). -/
def DataType.allowsClass (t : DataType) (p : Params) (pattern : BitVec 64) (class2 : Bool) : Bool :=
  match t with
  | .i16 => class2
  | .i32 => !class2
  | .i64 => true
  | .i8 => class2 || !classGives p true pattern
  | .f32 => !class2 || !classGives p false pattern

/-- `Q` and `D:Vd` of a register name (R77, R80, R81). -/
def AsmReg.fields : AsmReg → Bool × RegNum
  | .d n => (false, n)
  | .q n => (true, lowerHalf n)

/-- What R78, R79 and R82 require of a line, whatever its constant. -/
def AsmLine.accepted (l : AsmLine) : Bool :=
  (l.iset == .t32 || !l.conditional)
    && l.width != some .narrow
    && (l.first == none || l.first == some l.reg)
    && decide (l.imm.toNat < 2 ^ l.dtype.bits)

/-- An assembler may assemble line `l` to instruction `i`, the expansion being `p`'s (R83, R89). Where
several encodings give the constant, the source does not say which is picked (R83), so each is allowed. -/
def assemblesTo (p : Params) (l : AsmLine) (i : Instr) : Bool :=
  l.accepted
    && wellFormed i
    && i.iset == l.iset
    && (i.isQ, i.reg) == l.reg.fields
    && advSIMDExpandImm p 1#1 i.cmode i.imm8 == l.dtype.pattern l.imm
    && l.dtype.allowsClass p (l.dtype.pattern l.imm) i.inClass2

/-- Disassembly (R87): `.I32` or `.I16`, a `D` name or the `Q` name `d/2`, and the element constant of
`imm64`. The UNDEFINED subspaces are no instruction. -/
def disassemble (p : Params) (i : Instr) : Option AsmLine :=
  if i.isUndefined then none
  else
    let imm64 := advSIMDExpandImm p 1#1 i.cmode i.imm8
    some
      { iset := i.iset
        conditional := false
        width := none
        dtype := if i.inClass2 then .i16 else .i32
        first := none
        reg := if i.isQ then .q (i.reg.extractLsb' 1 4) else .d i.reg
        imm := if i.inClass2 then (imm64.extractLsb' 0 16).setWidth 64
          else (imm64.extractLsb' 0 32).setWidth 64 }

end Sys2Proof.Machine
end

