-- ==== Sys2Proof/Safety.lean ====
section
/-! DEFINITION. What a safe run is, in the terms the statements use. -/

namespace Sys2Proof.Machine

/-- The state a launch must have (R28, R34): no fault recorded and an aligned `pc`. -/
abbrev State.launchable (s : State) : Prop :=
  s.fault = none ∧ s.aligned = true

/-- "A faulted state has no further step and is never a final (successful) state" (R95). -/
abbrev State.faulted (s : State) : Prop :=
  s.fault ≠ none

/-- The invariant every step keeps: the program text is in canonical form (R31) and `pc` is aligned for
the instruction-set state (R34). -/
abbrev State.inv (s : State) : Prop :=
  s.text.wf ∧ s.aligned = true

/-- `n` is a register the instruction operates on: `D[d]`, and `D[d+1]` for a 128-bit form (R44). -/
abbrev inOperand (i : Instr) (n : RegNum) : Prop :=
  n = i.reg ∨ (i.isQ = true ∧ n = i.reg + 1#5)

/-- `t` has everything of `s` that no instruction of this hardware writes (R27): the flags and `DIT`, the
control registers, Security state and mode, the instruction set, the parameters, and every byte of
program text. -/
def State.sameUnwritten (s t : State) : Prop :=
  t.n = s.n ∧ t.z = s.z ∧ t.c = s.c ∧ t.v = s.v ∧ t.dit = s.dit ∧
  t.cpacr = s.cpacr ∧ t.nsacr = s.nsacr ∧ t.hcptr = s.hcptr ∧
  t.securityState = s.securityState ∧ t.peMode = s.peMode ∧ t.iset = s.iset ∧ t.params = s.params ∧
  ∀ a : Addr, t.textByte a = s.textByte a

/-- `P_EXPAND` is the default of R57 at the six values of `cmode` that reach it: the named property
`EXPAND_DEFAULT`. -/
abbrev ExpandDefault (p : Params) : Prop :=
  ∀ (cmode : BitVec 4) (imm8 : BitVec 8), isClass1 cmode || isClass2 cmode →
    advSIMDExpandImm p 1#1 cmode imm8 = advSIMDExpandImm defaultParams 1#1 cmode imm8

/-- `P_FETCH` is the default of R32 and R33 at every argument. -/
abbrev FetchDefault (p : Params) : Prop :=
  ∀ (inputs : FetchInputs) (b0 b1 b2 b3 : Byte),
    fetchWord p inputs b0 b1 b2 b3 = wordOfBytes inputs.iset b0 b1 b2 b3

/-- A program text: `words` at `base`, `base + 4`, ... (R103). -/
structure Program where
  iset : ISet
  base : Addr
  words : List Word
deriving DecidableEq, Repr

/-- The address of the k-th instruction of a program (R103). -/
def Program.addrOf (p : Program) (k : Nat) : Addr :=
  p.base + BitVec.ofNat 32 (4 * k)

/-- The state is a launch of a program (R28, R103): its text is in place and `pc` is `base`. -/
def Program.launchedIn (p : Program) (s : State) : Prop :=
  s.launchable ∧ s.iset = p.iset ∧ s.pc = p.base ∧
    ∀ k w, p.words[k]? = some w → ({ s with pc := p.addrOf k } : State).fetch = some w

/-- The run of a program has ended successfully: `pc == base + 4n` with no fault (R103). -/
def Program.endedIn (p : Program) (s : State) : Prop :=
  s.fault = none ∧ s.pc = p.addrOf p.words.length

end Sys2Proof.Machine
end

