-- ==== Sys2Proof/Certificates/Slice0/Obligations.lean ====
section
/-! DEFINITION. The statements for the provers. A statement whose clause rests on a choice of the model or
on a passage the spec marks as its own decision, inference or general knowledge says so and names the log
entry (notes/assumptions) or the spec's decision. -/

open Sys2Proof Sys2Proof.Machine

/-! ### Encoding -/

/-- Decode and encode agree (30_encoding.md sections 1 to 3): every well-formed instruction, with every
operand its encoding admits, is read back from its word. -/
def Obligations.EncodedInstructionDecodesToItself : Prop :=
  ∀ i : Instr, wellFormed i = true → decode i.iset (encode i) = .instr i

/-- The other direction: a word the decoder accepts is the encoding of the well-formed instruction it
gives, in the instruction set it was decoded in. -/
def Obligations.DecodedWordIsTheEncodingOfItsInstruction : Prop :=
  ∀ (iset : ISet) (w : Word) (i : Instr), decode iset w = .instr i →
    wellFormed i = true ∧ i.iset = iset ∧ encode i = w

/-- The decoder is the opcode table (30_encoding.md section 3): a word is decoded to an instruction of a
row exactly if it meets the mask and match of the row, the UNDEFINED rows counting before the rows of the
128-bit encodings. -/
def Obligations.DecodeFollowsTheOpcodeTable : Prop :=
  ∀ (iset : ISet) (w : Word),
    (∀ i : Instr, decode iset w = .instr i → i.row.iset = iset ∧ i.row.matchesWord w = true) ∧
    (∀ j : Instr, j.row.iset = iset → j.row.matchesWord w = true → j.isUndefined = true →
      ∃ i : Instr, decode iset w = .instr i ∧ i.row = j.row) ∧
    (∀ j : Instr, j.row.iset = iset → j.row.matchesWord w = true → j.isUndefined = false →
      (j.isQ = true → w.getLsbD 12 = false) →
      ∃ i : Instr, decode iset w = .instr i ∧ i.row = j.row)

/-- The eight patterns are pairwise disjoint within an instruction set, and no value matches patterns of
both instruction sets (30_encoding.md sections 1 and 3). -/
def Obligations.OpcodeTablePatternsAreDisjoint : Prop :=
  ∀ (i j : Instr) (w : Word), i.isUndefined = false → j.isUndefined = false →
    i.row.matchesWord w = true → j.row.matchesWord w = true → i.row = j.row

/-- The fields and constant bits of the diagrams: R39 for A32, R40 for T32, R46 for the constant bits;
`imm8` is `i:imm3:imm4` and the register number `D:Vd`. -/
def Obligations.EncodingPlacesFieldsAsTheDiagrams : Prop :=
  ∀ i : Instr, wellFormed i = true →
    (i.iset = .a32 → (encode i).extractLsb' 25 7 = 0b1111001#7 ∧ (encode i).getLsbD 24 = i.imm8.getLsbD 7 ∧
      (encode i).getLsbD 23 = true) ∧
    (i.iset = .t32 → (encode i).extractLsb' 29 3 = 0b111#3 ∧ (encode i).getLsbD 28 = i.imm8.getLsbD 7 ∧
      (encode i).extractLsb' 23 5 = 0b11111#5) ∧
    (encode i).getLsbD 22 = i.reg.getLsbD 4 ∧
    (encode i).extractLsb' 19 3 = 0b000#3 ∧
    (encode i).extractLsb' 16 3 = i.imm8.extractLsb' 4 3 ∧
    (encode i).extractLsb' 12 4 = i.reg.extractLsb' 0 4 ∧
    (encode i).extractLsb' 8 4 = i.cmode ∧
    (i.inClass2 = false → (encode i).getLsbD 11 = false ∧ (encode i).getLsbD 8 = true) ∧
    (i.inClass2 = true → (encode i).extractLsb' 10 2 = 0b10#2 ∧ (encode i).getLsbD 8 = true) ∧
    (encode i).getLsbD 7 = false ∧
    (encode i).getLsbD 6 = i.isQ ∧
    (encode i).getLsbD 5 = true ∧
    (encode i).getLsbD 4 = true ∧
    (encode i).extractLsb' 0 4 = i.imm8.extractLsb' 0 4

/-- Which words are refused, and by which name (30_encoding.md section 3; the two refusals are the spec's
decision D12). A step on such a word is refused by the same name. -/
def Obligations.RefusedWordsAreRelatedOrNotVBIC : Prop :=
  (∀ (iset : ISet) (w : Word),
    (decode iset w = .notVBIC ↔ w &&& groupMask iset ≠ groupMatch iset) ∧
    (decode iset w = .related ↔ w &&& groupMask iset = groupMatch iset ∧
      (w.getLsbD 8 = false ∨ w.extractLsb' 8 4 = 0b1101#4 ∨ w.extractLsb' 8 4 = 0b1111#4))) ∧
  (∀ (s : State) (w : Word), s.fault = none → s.aligned = true → s.fetch = some w →
    (decode s.iset w = .notVBIC → step s = .refused .notVBIC) ∧
    (decode s.iset w = .related → step s = .refused .related))

/-- Register operand assembly (R44): the register number is `16*D + Vd`, at most 31; `regs` is 2 where `Q`
is 1, else 1; the second register of a 128-bit form is the next one, at most 31. There is no second register
operand: no other register is written, and the new value of a register depends on no other register. -/
def Obligations.RegisterOperandIsSixteenDPlusVd : Prop :=
  ∀ (iset : ISet) (w : Word) (i : Instr), decode iset w = .instr i →
    i.reg.toNat = 16 * (w.getLsbD 22).toNat + (w.extractLsb' 12 4).toNat ∧ i.reg.toNat ≤ 31 ∧
    regsOf i.isQ = (if w.getLsbD 6 then 2 else 1) ∧
    (w.getLsbD 6 = true → i.isUndefined = false →
      (i.reg + 1#5).toNat = i.reg.toNat + 1 ∧ (i.reg + 1#5).toNat ≤ 31) ∧
    (∀ (s t : State) (n : RegNum), exec i s = .next t → t.readD n ≠ s.readD n → inOperand i n) ∧
    ∀ (s t : State) (n : RegNum) (other : Vector DWord 32), exec i s = .next t →
      ({ s with regs := other } : State).readD n = s.readD n →
      ∃ u, exec i { s with regs := other } = .next u ∧ u.readD n = t.readD n

/-- Immediate assembly (R43): `imm8` has `i` as bit 7, `imm3` as bits 6 to 4 and `imm4` as bits 3 to 0,
and the operand is the expansion of `'1'`, `cmode` and `imm8`. -/
def Obligations.ImmediateIsIImm3Imm4 : Prop :=
  ∀ (iset : ISet) (w : Word) (i : Instr), decode iset w = .instr i →
    i.imm8.toNat =
      128 * (w.getLsbD (match iset with | .a32 => 24 | .t32 => 28)).toNat
        + 16 * (w.extractLsb' 16 3).toNat + (w.extractLsb' 0 4).toNat ∧
    i.cmode = w.extractLsb' 8 4 ∧
    ∀ s : State, s.conditionPassed = true → s.simdCheck = .enabled → i.isUndefined = false →
      ∃ t, exec i s = .next t ∧ t.readD i.reg =
        s.readD i.reg &&& ~~~(advSIMDExpandImm s.params 1#1 i.cmode i.imm8)

/-- `cmode` decides the class (30_encoding.md section 2, the spec's inference from the diagrams): `0xx1` is
class A1 or T1, `10x1` class A2 or T2, every other value is not VBIC (immediate). -/
def Obligations.CmodeSelectsTheClass : Prop :=
  ∀ (iset : ISet) (w : Word), w &&& groupMask iset = groupMatch iset →
    (w.extractLsb' 8 4 ∈ [0b0001#4, 0b0011#4, 0b0101#4, 0b0111#4] →
      ∃ i, decode iset w = .instr i ∧ i.inClass2 = false) ∧
    (w.extractLsb' 8 4 ∈ [0b1001#4, 0b1011#4] → ∃ i, decode iset w = .instr i ∧ i.inClass2 = true) ∧
    (w.extractLsb' 8 4 ∉ [0b0001#4, 0b0011#4, 0b0101#4, 0b0111#4, 0b1001#4, 0b1011#4] →
      decode iset w = .related)

/-- A T32 encoding is obtained from the A32 encoding of the same operands, T1 from A1 and T2 from A2
(30_encoding.md section 1, the spec's inference from the two layouts). -/
def Obligations.T32EncodingFromA32Encoding : Prop :=
  let t32 (a : Word) : Word :=
    (a &&& 0x00FFFFFF#32) ||| 0xEF000000#32 ||| ((a.extractLsb' 24 1).setWidth 32 <<< 28)
  (∀ (d : RegNum) (cmode : BitVec 4) (imm8 : BitVec 8),
    encode (.vbicT1D d cmode imm8) = t32 (encode (.vbicA1D d cmode imm8)) ∧
    encode (.vbicT1Q d cmode imm8) = t32 (encode (.vbicA1Q d cmode imm8)) ∧
    encode (.vbicT2D d cmode imm8) = t32 (encode (.vbicA2D d cmode imm8)) ∧
    encode (.vbicT2Q d cmode imm8) = t32 (encode (.vbicA2Q d cmode imm8))) ∧
  ∀ w : Word, ¬(inGroup .a32 w = true ∧ inGroup .t32 w = true)

/-- Words written out in the spec decode to the instructions it gives (30_encoding.md, the worked examples
of 40_vbic_immediate.md section 3, 95_test_vectors.md section 2). -/
def Obligations.WordsOfTheSpecDecode : Prop :=
  decode .a32 0xF387013F#32 = .instr (.vbicA1D 0 0b0001 0xFF) ∧
  decode .a32 0xF382237B#32 = .instr (.vbicA1Q 2 0b0011 0xAB) ∧
  decode .a32 0xF3C0FB30#32 = .instr (.vbicA2D 31 0b1011 0x80) ∧
  decode .a32 0xF280097F#32 = .instr (.vbicA2Q 0 0b1001 0x0F) ∧
  decode .t32 0xFF87013F#32 = .instr (.vbicT1D 0 0b0001 0xFF) ∧
  decode .t32 0xEF83857C#32 = .instr (.vbicT1Q 8 0b0101 0x3C) ∧
  decode .t32 0xFF823935#32 = .instr (.vbicT2D 3 0b1001 0xA5) ∧
  decode .t32 0xFFC70B7F#32 = .instr (.vbicT2Q 16 0b1011 0xFF)

/-! ### What the instructions do -/

/-- The 64-bit forms in A32 complete where Advanced SIMD is enabled (R104's premise): `D[d]` loses the bits
of `imm64`, `pc` moves by 4 (decision D5), nothing else changes. -/
def Obligations.A32DoubleFormsClearOneRegister : Prop :=
  ∀ (d : RegNum) (cmode : BitVec 4) (imm8 : BitVec 8) (s : State),
    s.iset = .a32 → s.simdCheck = .enabled →
    exec (.vbicA1D d cmode imm8) s = .next { s.writeD d (s.readD d &&& ~~~s.imm64 cmode imm8) with
      pc := s.pc + 4#32 } ∧
    exec (.vbicA2D d cmode imm8) s = .next { s.writeD d (s.readD d &&& ~~~s.imm64 cmode imm8) with
      pc := s.pc + 4#32 }

/-- The 128-bit forms in A32 with an even register number: `D[d]` and `D[d+1]` lose the bits of the same
`imm64`, `pc` moves by 4 (decision D5), nothing else changes. -/
def Obligations.A32QuadFormsClearTwoRegisters : Prop :=
  ∀ (d : RegNum) (cmode : BitVec 4) (imm8 : BitVec 8) (s : State),
    s.iset = .a32 → s.simdCheck = .enabled → isEvenReg d = true →
    exec (.vbicA1Q d cmode imm8) s = .next { (s.writeD d (s.readD d &&& ~~~s.imm64 cmode imm8)).writeD
      (d + 1#5) (s.readD (d + 1#5) &&& ~~~s.imm64 cmode imm8) with pc := s.pc + 4#32 } ∧
    exec (.vbicA2Q d cmode imm8) s = .next { (s.writeD d (s.readD d &&& ~~~s.imm64 cmode imm8)).writeD
      (d + 1#5) (s.readD (d + 1#5) &&& ~~~s.imm64 cmode imm8) with pc := s.pc + 4#32 }

/-- The 64-bit forms in T32 whose condition passes: `D[d]` loses the bits of `imm64`, `pc` moves by 4
(decision D5), the condition context loses its first entry (decision D7; the form of the context and of its
advance is the model's, log 7), nothing else changes. -/
def Obligations.T32DoubleFormsClearOneRegister : Prop :=
  ∀ (d : RegNum) (cmode : BitVec 4) (imm8 : BitVec 8) (s : State),
    s.iset = .t32 → s.conditionPassed = true → s.simdCheck = .enabled →
    exec (.vbicT1D d cmode imm8) s = .next { s.writeD d (s.readD d &&& ~~~s.imm64 cmode imm8) with
      pc := s.pc + 4#32, condContext := s.condContext.tail } ∧
    exec (.vbicT2D d cmode imm8) s = .next { s.writeD d (s.readD d &&& ~~~s.imm64 cmode imm8) with
      pc := s.pc + 4#32, condContext := s.condContext.tail }

/-- The 128-bit forms in T32 with an even register number whose condition passes: `D[d]` and `D[d+1]` lose
the bits of the same `imm64`, `pc` moves by 4 (decision D5), the condition context loses its first entry
(decision D7; the form of the context and of its advance is the model's, log 7), nothing else changes. -/
def Obligations.T32QuadFormsClearTwoRegisters : Prop :=
  ∀ (d : RegNum) (cmode : BitVec 4) (imm8 : BitVec 8) (s : State),
    s.iset = .t32 → s.conditionPassed = true → s.simdCheck = .enabled → isEvenReg d = true →
    exec (.vbicT1Q d cmode imm8) s = .next { (s.writeD d (s.readD d &&& ~~~s.imm64 cmode imm8)).writeD
      (d + 1#5) (s.readD (d + 1#5) &&& ~~~s.imm64 cmode imm8) with
        pc := s.pc + 4#32, condContext := s.condContext.tail } ∧
    exec (.vbicT2Q d cmode imm8) s = .next { (s.writeD d (s.readD d &&& ~~~s.imm64 cmode imm8)).writeD
      (d + 1#5) (s.readD (d + 1#5) &&& ~~~s.imm64 cmode imm8) with
        pc := s.pc + 4#32, condContext := s.condContext.tail }

/-- The operation (R59), bit by bit and register by register: for each `r` below `regs`, bit `k` of
`D[d+r]` becomes 0 where bit `k` of `imm64` is 1 and stays where it is 0; nothing is raised; the registers
are different ones; if the condition fails, nothing of this happens. -/
def Obligations.OperationClearsTheImmediateBits : Prop :=
  ∀ (i : Instr) (s : State), wellFormed i = true → i.isUndefined = false →
    (s.conditionPassed = true → s.simdCheck = .enabled →
      ∃ t, exec i s = .next t ∧ t.fault = s.fault ∧
        ∀ r < regsOf i.isQ, ∀ k < 64, (t.readD (i.reg + BitVec.ofNat 5 r)).getLsbD k =
          if (s.imm64 i.cmode i.imm8).getLsbD k then false
          else (s.readD (i.reg + BitVec.ofNat 5 r)).getLsbD k) ∧
    i.reg + 1#5 ≠ i.reg ∧
    (s.conditionPassed = false →
      ∃ t, exec i s = .next t ∧ t.fault = s.fault ∧ ∀ n, t.readD n = s.readD n)

/-- The condition check (40_vbic_immediate.md section 2, decision D7): always passed in A32; in T32 any
function of the flags can be the condition, so both outcomes are possible in every state. -/
def Obligations.ConditionIsAlwaysTrueInA32AndFreeInT32 : Prop :=
  (∀ s : State, s.iset = .a32 → s.conditionPassed = true) ∧
  (∀ cond : Bool → Bool → Bool → Bool → Bool, ∃ table : BitVec 16, ∀ s : State, s.iset = .t32 →
    ({ s with condContext := table :: s.condContext } : State).conditionPassed = cond s.n s.z s.c s.v)

/-- A T32 instruction of the eight encodings whose condition fails is a no-op that advances `pc` and the
condition context (R63, decisions D5 and D7; the form of the context is log 7), whatever the enable check
would answer. -/
def Obligations.FailedConditionIsNoOp : Prop :=
  ∀ (i : Instr) (s : State), wellFormed i = true → i.isUndefined = false → s.iset = .t32 →
    s.conditionPassed = false →
    exec i s = .next { s with pc := s.pc + 4#32, condContext := s.condContext.tail }

/-- The four UNDEFINED subspaces, their condition passed: the fault record is set and nothing else
changes, whatever their operands and whatever the enable check would answer (60_exceptions.md sections 1
and 2; terminal fault: decision D9). -/
def Obligations.UndefinedSubspacesRaiseOddQRegister : Prop :=
  ∀ (d : RegNum) (cmode : BitVec 4) (imm8 : BitVec 8) (s : State), s.conditionPassed = true →
    exec (.undefinedA1Q d cmode imm8) s = .next { s with fault := some (.undefined .oddQRegister) } ∧
    exec (.undefinedA2Q d cmode imm8) s = .next { s with fault := some (.undefined .oddQRegister) } ∧
    exec (.undefinedT1Q d cmode imm8) s = .next { s with fault := some (.undefined .oddQRegister) } ∧
    exec (.undefinedT2Q d cmode imm8) s = .next { s with fault := some (.undefined .oddQRegister) }

/-- `Undefined(OddQRegister)` (R90, R47): which words cause it, that it depends on the word alone, and that
no register is written. The meaning of a 128-bit form given an odd register number raises it as well; no
64-bit form and no 128-bit form with an even register number ever raises it, whatever the state. -/
def Obligations.OddQuadFormIsUndefined : Prop :=
  (∀ (iset : ISet) (w : Word) (i : Instr), decode iset w = .instr i →
    (i.isUndefined = true ↔ w.getLsbD 6 = true ∧ w.getLsbD 12 = true)) ∧
  (∀ (i : Instr) (s : State), s.conditionPassed = true →
    (i.isUndefined = true ∨ (i.isQ = true ∧ isEvenReg i.reg = false)) →
    ∃ t, exec i s = .next t ∧ t.fault = some (.undefined .oddQRegister) ∧ t.regs = s.regs) ∧
  (∀ (i : Instr) (s t : State), i.isUndefined = false → (i.isQ = true → isEvenReg i.reg = true) →
    exec i s = .next t →
    s.fault ≠ some (.undefined .oddQRegister) → t.fault ≠ some (.undefined .oddQRegister))

/-- An UNDEFINED encoding whose condition fails (60_exceptions.md section 1, decision D11, log 6): what
each value of `P_UNDEF_COND_FAIL` admits; both outcomes under `Either`; never in A32; the enable check's
faults are never raised when the condition fails. That the no-op moves `pc` by 4 is decision D5, and that
it takes the first entry off the condition context is decision D7 in the model's form (log 7). -/
def Obligations.UndefinedEncodingWithFailedCondition : Prop :=
  (∀ (i : Instr) (s : State), i.isUndefined = true → s.conditionPassed = false →
    s.iset = .t32 ∧
    (s.params.undefCondFail = .nop →
      exec i s = .next { s with pc := s.pc + 4#32, condContext := s.condContext.tail }) ∧
    (s.params.undefCondFail = .undefined →
      exec i s = .next { s with fault := some (.undefined .oddQRegister) }) ∧
    (s.params.undefCondFail = .either →
      exec i s = .next { s with fault := some (.undefined .oddQRegister) } ∨
      exec i s = .next { s with
        pc := s.pc + 4#32, condContext := s.condContext.tail, freeChoices := s.freeChoices + 1 })) ∧
  (∀ (i : Instr) (s t : State), s.conditionPassed = false → s.fault = none → exec i s = .next t →
    t.fault ≠ some (.undefined .simdDisabled) ∧ t.fault ≠ some .hypTrap)

/-- `Undefined(SIMDDisabled)` (R91): any of the eight encodings, when `P_SIMD_CHECK` returns Undefined and
the check is reached; no register is written. -/
def Obligations.DisabledSimdRaisesUndefined : Prop :=
  ∀ (i : Instr) (s : State), wellFormed i = true → i.isUndefined = false → s.conditionPassed = true →
    s.simdCheck = .undefined →
    ∃ t, exec i s = .next t ∧ t.fault = some (.undefined .simdDisabled) ∧ t.regs = s.regs

/-- `HypTrap` (R92): any of the eight encodings, when `P_SIMD_CHECK` returns HypTrap and the check is
reached; no `D` register is written. -/
def Obligations.TrappedSimdRaisesHypTrap : Prop :=
  ∀ (i : Instr) (s : State), wellFormed i = true → i.isUndefined = false → s.conditionPassed = true →
    s.simdCheck = .hypTrap →
    ∃ t, exec i s = .next t ∧ t.fault = some .hypTrap ∧ t.regs = s.regs

/-- The order of the checks when the condition passes (60_exceptions.md section 1, decision D11): the odd
register, then the enable check, then the writes. -/
def Obligations.ChecksAreOrdered : Prop :=
  ∀ (i : Instr) (s : State), wellFormed i = true → s.conditionPassed = true → s.fault = none →
    ∃ t, exec i s = .next t ∧
      (t.fault = some (.undefined .oddQRegister) ↔ i.isUndefined = true) ∧
      (t.fault = some (.undefined .simdDisabled) ↔ i.isUndefined = false ∧ s.simdCheck = .undefined) ∧
      (t.fault = some .hypTrap ↔ i.isUndefined = false ∧ s.simdCheck = .hypTrap) ∧
      ((∃ n, t.readD n ≠ s.readD n) → i.isUndefined = false ∧ s.simdCheck = .enabled)

/-- Faults are precise and terminal (60_exceptions.md section 2, decisions D9 and D10): an instruction
either completes without a fault or leaves the state exactly as it was but for the record; a faulted state
has no further step; a 128-bit form updates both its registers or neither. -/
def Obligations.FaultsArePreciseAndTerminal : Prop :=
  (∀ (i : Instr) (s t : State), s.fault = none → exec i s = .next t →
    (t.fault = none ∧ t.pc = s.pc + 4#32) ∨
    ∃ r, t = { s with fault := some r } ∧ step t = .fault r) ∧
  (∀ (i : Instr) (s t : State), i.isQ = true → exec i s = .next t →
    ((∀ n, inOperand i n → t.readD n = bitClear (s.readD n) (s.imm64 i.cmode i.imm8)) ∨
     (∀ n, t.readD n = s.readD n)))

/-- The complete write set (10_state.md section 5, the spec's inference): every register outside the
operand, every flag, control register, mode, parameter and byte of program text is unchanged; the fault
record is unchanged or one of the three faults. The counter of free choices is the model's own (log 6). -/
def Obligations.WriteSetIsComplete : Prop :=
  ∀ (i : Instr) (s t : State), exec i s = .next t →
    (∀ n, ¬inOperand i n → t.readD n = s.readD n) ∧
    (i.isUndefined = true → t.regs = s.regs) ∧
    s.sameUnwritten t ∧
    (t.fault = s.fault ∨ t.fault = some (.undefined .oddQRegister) ∨
      t.fault = some (.undefined .simdDisabled) ∨ t.fault = some .hypTrap) ∧
    (s.iset = .a32 → t.condContext = s.condContext) ∧
    (wellFormed i = true → i.isUndefined = false → t.freeChoices = s.freeChoices)

/-- The program counter (10_state.md section 5, decisions D5 and D17): an instruction that completes moves
it by 4 modulo 2^32, a faulting one leaves it; it is no operand: where the enable check answers the same,
the registers come out the same at every address. -/
def Obligations.ProgramCounterMovesByFour : Prop :=
  ∀ (i : Instr) (s t : State), s.fault = none → exec i s = .next t →
    (t.fault = none → t.pc.toNat = (s.pc.toNat + 4) % 2 ^ 32) ∧
    (t.fault ≠ none → t.pc = s.pc) ∧
    ∀ (p : Addr), ({ s with pc := p } : State).simdCheck = s.simdCheck →
      ∃ u, exec i { s with pc := p } = .next u ∧ u.regs = t.regs ∧ u.fault = t.fault

/-- The fault record (10_state.md section 6, decisions D9 and D10): no fault at reset; once set, no
instruction clears it and no step follows. -/
def Obligations.FaultRecordIsNeverCleared : Prop :=
  State.reset.fault = none ∧
  (∀ (i : Instr) (s t : State), s.fault ≠ none → exec i s = .next t → t.fault ≠ none) ∧
  (∀ (s : State) (r : Fault), s.fault = some r → step s = .fault r)

/-- The meaning of every instruction answers a next state in every state: none refuses and none stops the
machine itself. (The model's form of decisions D9 and D10: a fault is a record, log 10.) -/
def Obligations.EveryInstructionAnswersANextState : Prop :=
  ∀ (i : Instr) (s : State), ∃ t, exec i s = .next t

/-! ### Registers and the immediate -/

/-- The register accessor (10_state.md section 2; a plain array: decision D18): a register reads the value
last written to it, a write leaves every other register alone, and of two writes the last counts. -/
def Obligations.RegisterReadsLastWrite : Prop :=
  ∀ (s : State) (k n : RegNum) (x y : DWord),
    (s.writeD k x).readD k = x ∧ (n ≠ k → (s.writeD k x).readD n = s.readD n) ∧
    (s.writeD k x).writeD k y = s.writeD k y

/-- `Qn` and `D[2n]`, `D[2n+1]` are the same storage (10_state.md section 2): in each class and instruction
set, a 128-bit form on `Qn` clears the bits of both halves, and a 64-bit form on `D[2n]` or on `D[2n+1]` is
seen through `Qn`, in its half alone. That `D[2n+1]` is the more significant half is the model's choice
(log 13). -/
def Obligations.QuadRegisterIsItsTwoDoubles : Prop :=
  ∀ n : BitVec 4, (lowerHalf n).toNat = 2 * n.toNat ∧ (upperHalf n).toNat = 2 * n.toNat + 1 ∧
  ∀ (i : Instr) (s : State), wellFormed i = true → i.isUndefined = false → s.conditionPassed = true →
    s.simdCheck = .enabled → (i.reg = lowerHalf n ∨ i.reg = upperHalf n) →
    ∃ t, exec i s = .next t ∧
      t.readQ n = s.readQ n &&& ~~~(
        if i.isQ then (s.imm64 i.cmode i.imm8 ++ s.imm64 i.cmode i.imm8 : BitVec (64 + 64)).setWidth 128
        else if i.reg = lowerHalf n then (0#64 ++ s.imm64 i.cmode i.imm8 : BitVec (64 + 64)).setWidth 128
        else (s.imm64 i.cmode i.imm8 ++ 0#64 : BitVec (64 + 64)).setWidth 128)

/-- The laws of `x AND NOT(m)` (40_vbic_immediate.md section 4, the spec's inference from the operation): the
masks 0 and all ones, idempotence, composition in either order, the split of `x` by `m`, and no bit set. -/
def Obligations.BitClearLaws : Prop :=
  ∀ x m m1 m2 : DWord,
    bitClear x 0#64 = x ∧ bitClear x (BitVec.allOnes 64) = 0#64 ∧
    bitClear (bitClear x m) m = bitClear x m ∧
    bitClear (bitClear x m1) m2 = bitClear x (m1 ||| m2) ∧
    bitClear (bitClear x m2) m1 = bitClear x (m1 ||| m2) ∧
    bitClear x m &&& m = 0#64 ∧ bitClear x m ||| (x &&& m) = x ∧
    ∀ k < 64, x.getLsbD k = false → (bitClear x m).getLsbD k = false

/-- Two 64-bit instructions on one register commute and merge (40_vbic_immediate.md section 4): in either
order they end in the same state, with the OR of the two immediates cleared. The premises are that none of
the four executions faults and that all four conditions pass (they do in A32); two of the four are the
first executions, both in the state before. -/
def Obligations.TwoVbicsOnOneRegisterCommuteAndMerge : Prop :=
  ∀ (i j : Instr) (s s1 s2 t1 t2 : State), i.isQ = false → j.isQ = false → i.reg = j.reg →
    s.fault = none → s.conditionPassed = true → s1.conditionPassed = true → t1.conditionPassed = true →
    exec i s = .next s1 → exec j s1 = .next s2 → s2.fault = none →
    exec j s = .next t1 → exec i t1 = .next t2 → t2.fault = none →
    s2 = t2 ∧ s2.readD i.reg =
      bitClear (s.readD i.reg) (s.imm64 i.cmode i.imm8 ||| s.imm64 j.cmode j.imm8)

/-- A 128-bit form has the register effect of two 64-bit forms of its class with the same immediate, one on
each register of the pair (95_test_vectors.md section 4), in A32 and in T32. The premises are that no
execution faults and that the conditions pass (they do in A32). -/
def Obligations.QuadFormEqualsTwoDoubleForms : Prop :=
  ∀ (d : RegNum) (cmode : BitVec 4) (imm8 : BitVec 8) (s q t u : State),
    s.fault = none → isEvenReg d = true → s.conditionPassed = true → t.conditionPassed = true →
    q.fault = none → u.fault = none →
    (exec (.vbicA1Q d cmode imm8) s = .next q → exec (.vbicA1D d cmode imm8) s = .next t →
      exec (.vbicA1D (d + 1#5) cmode imm8) t = .next u → u.regs = q.regs) ∧
    (exec (.vbicA2Q d cmode imm8) s = .next q → exec (.vbicA2D d cmode imm8) s = .next t →
      exec (.vbicA2D (d + 1#5) cmode imm8) t = .next u → u.regs = q.regs) ∧
    (exec (.vbicT1Q d cmode imm8) s = .next q → exec (.vbicT1D d cmode imm8) s = .next t →
      exec (.vbicT1D (d + 1#5) cmode imm8) t = .next u → u.regs = q.regs) ∧
    (exec (.vbicT2Q d cmode imm8) s = .next q → exec (.vbicT2D d cmode imm8) s = .next t →
      exec (.vbicT2D (d + 1#5) cmode imm8) t = .next u → u.regs = q.regs)

/-- The lane view (40_vbic_immediate.md section 4, the spec's inference): a class 1 instruction clears the
same 32-bit constant in every 32-bit lane of its operand, a class 2 instruction the same 16-bit constant in
every 16-bit lane. -/
def Obligations.LanesAreClearedAlike : Prop :=
  ∀ (i : Instr) (s : State), wellFormed i = true → i.isUndefined = false → s.conditionPassed = true →
    s.simdCheck = .enabled →
    ∃ t, exec i s = .next t ∧
      (i.inClass2 = false → ∃ e : BitVec 32, ∀ n, inOperand i n → ∀ lane < 2,
        (t.readD n).extractLsb' (32 * lane) 32 = (s.readD n).extractLsb' (32 * lane) 32 &&& ~~~e) ∧
      (i.inClass2 = true → ∃ e : BitVec 16, ∀ n, inOperand i n → ∀ lane < 4,
        (t.readD n).extractLsb' (16 * lane) 16 = (s.readD n).extractLsb' (16 * lane) 16 &&& ~~~e)

/-- What the page fixes of the expansion (40_vbic_immediate.md section 1): for every `P_EXPAND`, a 32-bit
constant twice for `cmode = 0xx1` (EXPAND_REPL32), a 16-bit constant four times for `cmode = 10x1`
(EXPAND_REPL16). -/
def Obligations.ExpandedImmediateIsReplicated : Prop :=
  ∀ (p : Params) (cmode : BitVec 4) (imm8 : BitVec 8),
    (isClass1 cmode = true → (advSIMDExpandImm p 1#1 cmode imm8).extractLsb' 32 32 =
      (advSIMDExpandImm p 1#1 cmode imm8).extractLsb' 0 32) ∧
    (isClass2 cmode = true → ∀ quarter < 4, (advSIMDExpandImm p 1#1 cmode imm8).extractLsb' (16 * quarter) 16 =
      (advSIMDExpandImm p 1#1 cmode imm8).extractLsb' 0 16)

/-- The default body of `P_EXPAND` (40_vbic_immediate.md section 1: general knowledge there, PRESUMED, log 4):
each `cmode` is a left shift of `imm8` within a 32-bit or a 16-bit element. -/
def Obligations.DefaultExpansionShiftsTheByte : Prop :=
  ∀ (imm8 : BitVec 8) (lane k : Nat),
    (∀ j < 4, lane < 2 → k < 32 →
      (advSIMDExpandImm defaultParams 1#1 (BitVec.ofNat 4 (2 * j + 1)) imm8).getLsbD (32 * lane + k) =
        (decide (8 * j ≤ k ∧ k < 8 * j + 8) && imm8.getLsbD (k - 8 * j))) ∧
    (∀ j < 2, lane < 4 → k < 16 →
      (advSIMDExpandImm defaultParams 1#1 (BitVec.ofNat 4 (2 * j + 9)) imm8).getLsbD (16 * lane + k) =
        (decide (8 * j ≤ k ∧ k < 8 * j + 8) && imm8.getLsbD (k - 8 * j)))

/-- Corner cases of the immediate under EXPAND_DEFAULT (40_vbic_immediate.md section 4; the default is
PRESUMED, log 4): `imm8 = 0` changes no register, and no immediate is all ones. -/
def Obligations.DefaultImmediateCorners : Prop :=
  (∀ (i : Instr) (s t : State), wellFormed i = true → ExpandDefault s.params → i.imm8 = 0#8 →
    exec i s = .next t → ∀ n, t.readD n = s.readD n) ∧
  (∀ (p : Params) (cmode : BitVec 4) (imm8 : BitVec 8), ExpandDefault p →
    isClass1 cmode || isClass2 cmode → advSIMDExpandImm p 1#1 cmode imm8 ≠ BitVec.allOnes 64)

/-! ### The step -/

/-- A step runs the decoded instruction (40_vbic_immediate.md section 2, the step of the model). -/
def Obligations.StepRunsTheDecodedInstruction : Prop :=
  ∀ (s : State) (w : Word) (i : Instr), s.fault = none → s.aligned = true → s.fetch = some w →
    decode s.iset w = .instr i → step s = exec i s

/-- Where a step finds no instruction: a `pc` that is not aligned for the instruction set (20_memory.md
section 2, decision D16) and an instruction of which any of the four bytes is not in the text (decision D20,
log 2, log 8). -/
def Obligations.StepRefusesWhereNoInstructionIs : Prop :=
  ∀ s : State, s.fault = none →
    (s.iset = .a32 → s.pc.toNat % 4 ≠ 0 → step s = .refused .misalignedPc) ∧
    (s.iset = .t32 → s.pc.toNat % 2 ≠ 0 → step s = .refused .misalignedPc) ∧
    (s.aligned = true → ∀ k < 4, s.textByte (s.pc + BitVec.ofNat 32 k) = none →
      step s = .refused .noText)

/-- The bytes of an instruction under the default of `P_FETCH` (20_memory.md section 2: general knowledge
there, PRESUMED, log 3): a little-endian word in A32; two little-endian halfwords, the first at the lower
address, in T32. -/
def Obligations.FetchIsLittleEndian : Prop :=
  ∀ (s : State) (b0 b1 b2 b3 : Byte), FetchDefault s.params → s.textByte s.pc = some b0 → s.textByte (s.pc + 1#32) = some b1 →
    s.textByte (s.pc + 2#32) = some b2 → s.textByte (s.pc + 3#32) = some b3 →
    ∃ w, s.fetch = some w ∧
      (s.iset = .a32 → w.extractLsb' 0 8 = b0 ∧ w.extractLsb' 8 8 = b1 ∧ w.extractLsb' 16 8 = b2 ∧
        w.extractLsb' 24 8 = b3) ∧
      (s.iset = .t32 → w.extractLsb' 16 8 = b0 ∧ w.extractLsb' 24 8 = b1 ∧ w.extractLsb' 0 8 = b2 ∧
        w.extractLsb' 8 8 = b3)

/-- `P_FETCH` as a parameter (00_scope.md section 3, decision D4): where the text has the four bytes at `pc`
a step fetches an instruction, for every `P_FETCH`; it is a function of the program text, `pc` and the
instruction set alone; and every function of these is some `P_FETCH`, whichever state it is used in. -/
def Obligations.FetchIsAnyFunctionOfTextPcAndIset : Prop :=
  (∀ s : State, (s.fetch ≠ none ↔ ∀ k < 4, s.textByte (s.pc + BitVec.ofNat 32 k) ≠ none)) ∧
  (∀ s t : State, s.params = t.params → s.text = t.text → s.pc = t.pc → s.iset = t.iset →
    s.fetch = t.fetch) ∧
  (∀ (pFetch : Memory → Addr → ISet → Word) (states : List State), ∃ rows : List (FetchInputs × Word),
    ∀ s ∈ states, s.fetch ≠ none →
      ({ s with params := { s.params with fetchRows := rows } } : State).fetch =
        some (pFetch s.text s.pc s.iset))

/-- Loading one instruction (the model's stand-in for a launch, log 2): at a `pc` aligned for the
instruction's own instruction set, an instruction's word, stored where the step fetches, is what the next
step runs. Every register, every other byte, every other parameter, and `P_FETCH` at every other argument,
is as before. -/
def Obligations.LoadedInstructionIsRunNext : Prop :=
  ∀ (i : Instr) (s : State), wellFormed i = true → s.fault = none →
    (i.iset = .a32 → s.pc.toNat % 4 = 0) → (i.iset = .t32 → s.pc.toNat % 2 = 0) →
    step (s.withFetchWord 32 (encode i).toNat) = exec i (s.withFetchWord 32 (encode i).toNat) ∧
    (s.withFetchWord 32 (encode i).toNat).iset = i.iset ∧
    (∀ n, (s.withFetchWord 32 (encode i).toNat).readD n = s.readD n) ∧
    (∀ a : Addr, a ∉ [s.pc, s.pc + 1#32, s.pc + 2#32, s.pc + 3#32] →
      (s.withFetchWord 32 (encode i).toNat).textByte a = s.textByte a) ∧
    ({ (s.withFetchWord 32 (encode i).toNat).params with fetchRows := s.params.fetchRows } : Params) =
      s.params ∧
    (∀ (k : FetchInputs) (b0 b1 b2 b3 : Byte), k ≠ (s.withFetchWord 32 (encode i).toNat).fetchInputs →
      fetchWord (s.withFetchWord 32 (encode i).toNat).params k b0 b1 b2 b3 =
        fetchWord s.params k b0 b1 b2 b3)

/-- Every step keeps the invariant (20_memory.md sections 1 and 2; the alignment figures are decision D16):
the program text stays in canonical form and `pc` stays aligned for the instruction set. -/
def Obligations.StepKeepsTextCanonicalAndPcAligned : Prop :=
  ∀ s t : State, s.inv → step s = .next t → t.inv

/-- The reset state meets the invariant and records no fault (10_state.md section 6; that the rest of it is
the model's choice is log 1). -/
def Obligations.ResetMeetsTheInvariantWithoutFault : Prop :=
  State.reset.inv ∧ State.reset.fault = none

/-- A rule of the whole machine: no step ever sets a bit of a SIMD&FP register (from 40_vbic_immediate.md
section 4: "The result never has a 1 bit where `x` had a 0"). -/
def Obligations.StepNeverSetsARegisterBit : Prop :=
  ∀ (s t : State), step s = .next t →
    ∀ (n : RegNum) (k : Nat), (t.readD n).getLsbD k = true → (s.readD n).getLsbD k = true

/-- A rule of the whole machine (10_state.md section 5, 20_memory.md section 3): no step writes a flag,
`DIT`, a control register, the Security state, the mode, the instruction set, a parameter or the program
text; a step that completes is the only way `pc` moves, and it moves by 4. -/
def Obligations.StepLeavesUnwrittenStateAlone : Prop :=
  ∀ s t : State, step s = .next t → s.sameUnwritten t ∧ t.text = s.text ∧
    (t.pc = s.pc + 4#32 ∧ t.fault = none ∨ t.pc = s.pc ∧ t.fault ≠ none ∧ t.regs = s.regs)

/-! ### What an instruction cannot observe -/

/-- No data access (20_memory.md section 1, the spec's inference): no instruction changes the program text
or behaves differently with another text. -/
def Obligations.InstructionsNeitherReadNorWriteMemory : Prop :=
  ∀ (i : Instr) (s t : State) (m : Memory), exec i s = .next t →
    t.text = s.text ∧ exec i { s with text := m } = .next { t with text := m }

/-- The flags (R20): never written, and read at most through the condition check. -/
def Obligations.FlagsAreReadOnlyByTheConditionCheck : Prop :=
  ∀ (i : Instr) (s t : State) (n z c v : Bool), exec i s = .next t →
    (t.n = s.n ∧ t.z = s.z ∧ t.c = s.c ∧ t.v = s.v) ∧
    (({ s with n := n, z := z, c := c, v := v } : State).conditionPassed = s.conditionPassed →
      exec i { s with n := n, z := z, c := c, v := v } =
        .next { t with n := n, z := z, c := c, v := v })

/-- `CPSR.DIT` (10_state.md section 3): written by no instruction and, in a model without time, read by
none (log 11). -/
def Obligations.DitChangesNoResult : Prop :=
  ∀ (i : Instr) (s t : State) (b : Bool), exec i s = .next t →
    t.dit = s.dit ∧ exec i { s with dit := b } = .next { t with dit := b }

/-- The enable check (10_state.md section 4, decision D8): with the same parameter, states that agree on
the three control registers, Security state, mode and `pc` get the same answer, and every answer is
possible. That the answer may vary with `pc` is the model's choice (log 5). -/
def Obligations.SimdCheckReadsOnlyItsNamedInputs : Prop :=
  (∀ s t : State, s.params = t.params → s.cpacr = t.cpacr → s.nsacr = t.nsacr → s.hcptr = t.hcptr →
    s.securityState = t.securityState → s.peMode = t.peMode → s.pc = t.pc → s.simdCheck = t.simdCheck) ∧
  (∀ (s : State) (answer : SimdInputs → SimdCheck), ∃ rows : List (SimdInputs × SimdCheck),
    ({ s with params := { s.params with simdRows := rows } } : State).simdCheck = answer s.simdInputs)

/-! ### Assembler -/

/-- What a line assembles to is never of an UNDEFINED subspace, since a `Q` name is encoded as twice its
number (41_assembler_alias_pseudo.md section 1); its data type decides the class and its register name
`Q`. -/
def Obligations.AssembledInstructionIsNeverUndefined : Prop :=
  ∀ (p : Params) (l : AsmLine) (i : Instr), assemblesTo p l i = true →
    i.isUndefined = false ∧ i.iset = l.iset ∧
    (∀ n, l.reg = .d n → i.isQ = false ∧ i.reg = n) ∧
    (∀ n, l.reg = .q n → i.isQ = true ∧ i.reg.toNat = 2 * n.toNat) ∧
    (l.dtype = .i32 → i.inClass2 = false) ∧ (l.dtype = .i16 → i.inClass2 = true)

/-- Disassembly (41_assembler_alias_pseudo.md section 3): every well-formed instruction of the eight
encodings has a line of data type I32 or I16, and the line may assemble back to it. -/
def Obligations.DisassembledLineAssemblesBack : Prop :=
  ∀ (p : Params) (i : Instr), wellFormed i = true → i.isUndefined = false →
    ∃ l, disassemble p i = some l ∧ (l.dtype = .i32 ∨ l.dtype = .i16) ∧ assemblesTo p l i = true

/-- The pseudo data type I8 (41_assembler_alias_pseudo.md section 2, worked out there under the default
expansion, log 4): a line is assembled for the constant 0 only. -/
def Obligations.PseudoTypeI8AdmitsOnlyZero : Prop :=
  ∀ (p : Params) (l : AsmLine) (i : Instr), ExpandDefault p → l.dtype = .i8 →
    assemblesTo p l i = true → l.imm = 0#64 ∧ i.imm8 = 0#8 ∧ i.inClass2 = true

/-- The pseudo data types I8, I64 and F32 (41_assembler_alias_pseudo.md section 2): a line whose other parts
are accepted assembles to some instruction exactly when the written constant, repeated at its own element
size, is the `imm64` of some encoding of either class, for every `P_EXPAND`. An instruction it assembles to
has that `imm64`. Where both classes give the pattern, I8 goes to `.I16` and F32 to `.I32`, which the spec's
table says of the default expansion and the model takes for every one (log 12). -/
def Obligations.PseudoTypeAcceptedExactlyWhenEncodable : Prop :=
  ∀ (p : Params) (l : AsmLine), l.dtype = .i8 ∨ l.dtype = .i64 ∨ l.dtype = .f32 → l.accepted = true →
    ((∃ i, assemblesTo p l i = true) ↔
      ∃ (cmode : BitVec 4) (imm8 : BitVec 8), (isClass1 cmode = true ∨ isClass2 cmode = true) ∧
        advSIMDExpandImm p 1#1 cmode imm8 = l.dtype.pattern l.imm) ∧
    ∀ i, assemblesTo p l i = true →
      advSIMDExpandImm p 1#1 i.cmode i.imm8 = l.dtype.pattern l.imm ∧
      (l.dtype = .i8 → i.inClass2 = false → ∀ (cmode : BitVec 4) (imm8 : BitVec 8),
        isClass2 cmode = true → advSIMDExpandImm p 1#1 cmode imm8 ≠ l.dtype.pattern l.imm) ∧
      (l.dtype = .f32 → i.inClass2 = true → ∀ (cmode : BitVec 4) (imm8 : BitVec 8),
        isClass1 cmode = true → advSIMDExpandImm p 1#1 cmode imm8 ≠ l.dtype.pattern l.imm)
end

