-- ==== Sys2Proof/Laws/Asm.lean ====
section
/-! SUPPORT. What the assembler's operations say. -/

namespace Sys2Proof.Machine

/-- The `cmode` values of a class are those the decoder puts in it (R45). -/
theorem mem_classCmodes (class2 : Bool) (cmode : BitVec 4) :
    cmode ∈ classCmodes class2 ↔ (if class2 then isClass2 cmode else isClass1 cmode) = true := by
  cases class2 <;> revert cmode <;> decide

/-- Everything `classGives` says: some `cmode` of the class and some `imm8` expand to the pattern. -/
theorem classGives_iff (p : Params) (class2 : Bool) (pattern : BitVec 64) :
    classGives p class2 pattern = true ↔ ∃ (cmode : BitVec 4) (imm8 : BitVec 8),
      (if class2 then isClass2 cmode else isClass1 cmode) = true ∧
        advSIMDExpandImm p 1#1 cmode imm8 = pattern := by
  simp only [classGives, List.any_eq_true, beq_iff_eq, mem_classCmodes, List.mem_range]
  constructor
  · rintro ⟨cmode, hc, b, _, h⟩
    exact ⟨cmode, BitVec.ofNat 8 b, hc, h⟩
  · rintro ⟨cmode, imm8, hc, h⟩
    exact ⟨cmode, hc, imm8.toNat, imm8.isLt, by simpa using h⟩

/-- Everything an assembled line says of its instruction. -/
theorem assemblesTo_iff (p : Params) (l : AsmLine) (i : Instr) :
    assemblesTo p l i = true ↔ l.accepted = true ∧ wellFormed i = true ∧ i.iset = l.iset ∧
      (i.isQ, i.reg) = l.reg.fields ∧
      advSIMDExpandImm p 1#1 i.cmode i.imm8 = l.dtype.pattern l.imm ∧
      l.dtype.allowsClass p (l.dtype.pattern l.imm) i.inClass2 = true := by
  simp [assemblesTo, and_assoc]

end Sys2Proof.Machine
end

