-- ==== Sys2Proof/Laws/State.lean ====
section
/-! SUPPORT. One lemma per field and update of the state, so that no proof unfolds a record update. -/

namespace Sys2Proof.Machine

/-! ### `writeD` -/

@[simp] theorem State.writeD_regs (s : State) (k : RegNum) (x : DWord) :
    (s.writeD k x).regs = s.regs.set k.toNat x k.isLt := rfl

@[simp] theorem State.writeD_n (s : State) (k : RegNum) (x : DWord) :
    (s.writeD k x).n = s.n := rfl

@[simp] theorem State.writeD_z (s : State) (k : RegNum) (x : DWord) :
    (s.writeD k x).z = s.z := rfl

@[simp] theorem State.writeD_c (s : State) (k : RegNum) (x : DWord) :
    (s.writeD k x).c = s.c := rfl

@[simp] theorem State.writeD_v (s : State) (k : RegNum) (x : DWord) :
    (s.writeD k x).v = s.v := rfl

@[simp] theorem State.writeD_dit (s : State) (k : RegNum) (x : DWord) :
    (s.writeD k x).dit = s.dit := rfl

@[simp] theorem State.writeD_cpacr (s : State) (k : RegNum) (x : DWord) :
    (s.writeD k x).cpacr = s.cpacr := rfl

@[simp] theorem State.writeD_nsacr (s : State) (k : RegNum) (x : DWord) :
    (s.writeD k x).nsacr = s.nsacr := rfl

@[simp] theorem State.writeD_hcptr (s : State) (k : RegNum) (x : DWord) :
    (s.writeD k x).hcptr = s.hcptr := rfl

@[simp] theorem State.writeD_securityState (s : State) (k : RegNum) (x : DWord) :
    (s.writeD k x).securityState = s.securityState := rfl

@[simp] theorem State.writeD_peMode (s : State) (k : RegNum) (x : DWord) :
    (s.writeD k x).peMode = s.peMode := rfl

@[simp] theorem State.writeD_iset (s : State) (k : RegNum) (x : DWord) :
    (s.writeD k x).iset = s.iset := rfl

@[simp] theorem State.writeD_pc (s : State) (k : RegNum) (x : DWord) :
    (s.writeD k x).pc = s.pc := rfl

@[simp] theorem State.writeD_condContext (s : State) (k : RegNum) (x : DWord) :
    (s.writeD k x).condContext = s.condContext := rfl

@[simp] theorem State.writeD_fault (s : State) (k : RegNum) (x : DWord) :
    (s.writeD k x).fault = s.fault := rfl

@[simp] theorem State.writeD_text (s : State) (k : RegNum) (x : DWord) :
    (s.writeD k x).text = s.text := rfl

@[simp] theorem State.writeD_params (s : State) (k : RegNum) (x : DWord) :
    (s.writeD k x).params = s.params := rfl

@[simp] theorem State.writeD_freeChoices (s : State) (k : RegNum) (x : DWord) :
    (s.writeD k x).freeChoices = s.freeChoices := rfl


/-! ### `advancePc` -/

@[simp] theorem State.advancePc_regs (s : State) :
    (s.advancePc).regs = s.regs := rfl

@[simp] theorem State.advancePc_n (s : State) :
    (s.advancePc).n = s.n := rfl

@[simp] theorem State.advancePc_z (s : State) :
    (s.advancePc).z = s.z := rfl

@[simp] theorem State.advancePc_c (s : State) :
    (s.advancePc).c = s.c := rfl

@[simp] theorem State.advancePc_v (s : State) :
    (s.advancePc).v = s.v := rfl

@[simp] theorem State.advancePc_dit (s : State) :
    (s.advancePc).dit = s.dit := rfl

@[simp] theorem State.advancePc_cpacr (s : State) :
    (s.advancePc).cpacr = s.cpacr := rfl

@[simp] theorem State.advancePc_nsacr (s : State) :
    (s.advancePc).nsacr = s.nsacr := rfl

@[simp] theorem State.advancePc_hcptr (s : State) :
    (s.advancePc).hcptr = s.hcptr := rfl

@[simp] theorem State.advancePc_securityState (s : State) :
    (s.advancePc).securityState = s.securityState := rfl

@[simp] theorem State.advancePc_peMode (s : State) :
    (s.advancePc).peMode = s.peMode := rfl

@[simp] theorem State.advancePc_iset (s : State) :
    (s.advancePc).iset = s.iset := rfl

@[simp] theorem State.advancePc_pc (s : State) :
    (s.advancePc).pc = s.pc + 4#32 := rfl

@[simp] theorem State.advancePc_condContext (s : State) :
    (s.advancePc).condContext = s.condContext := rfl

@[simp] theorem State.advancePc_fault (s : State) :
    (s.advancePc).fault = s.fault := rfl

@[simp] theorem State.advancePc_text (s : State) :
    (s.advancePc).text = s.text := rfl

@[simp] theorem State.advancePc_params (s : State) :
    (s.advancePc).params = s.params := rfl

@[simp] theorem State.advancePc_freeChoices (s : State) :
    (s.advancePc).freeChoices = s.freeChoices := rfl


/-! ### `raise` -/

@[simp] theorem State.raise_regs (s : State) (r : Fault) :
    (s.raise r).regs = s.regs := rfl

@[simp] theorem State.raise_n (s : State) (r : Fault) :
    (s.raise r).n = s.n := rfl

@[simp] theorem State.raise_z (s : State) (r : Fault) :
    (s.raise r).z = s.z := rfl

@[simp] theorem State.raise_c (s : State) (r : Fault) :
    (s.raise r).c = s.c := rfl

@[simp] theorem State.raise_v (s : State) (r : Fault) :
    (s.raise r).v = s.v := rfl

@[simp] theorem State.raise_dit (s : State) (r : Fault) :
    (s.raise r).dit = s.dit := rfl

@[simp] theorem State.raise_cpacr (s : State) (r : Fault) :
    (s.raise r).cpacr = s.cpacr := rfl

@[simp] theorem State.raise_nsacr (s : State) (r : Fault) :
    (s.raise r).nsacr = s.nsacr := rfl

@[simp] theorem State.raise_hcptr (s : State) (r : Fault) :
    (s.raise r).hcptr = s.hcptr := rfl

@[simp] theorem State.raise_securityState (s : State) (r : Fault) :
    (s.raise r).securityState = s.securityState := rfl

@[simp] theorem State.raise_peMode (s : State) (r : Fault) :
    (s.raise r).peMode = s.peMode := rfl

@[simp] theorem State.raise_iset (s : State) (r : Fault) :
    (s.raise r).iset = s.iset := rfl

@[simp] theorem State.raise_pc (s : State) (r : Fault) :
    (s.raise r).pc = s.pc := rfl

@[simp] theorem State.raise_condContext (s : State) (r : Fault) :
    (s.raise r).condContext = s.condContext := rfl

@[simp] theorem State.raise_fault (s : State) (r : Fault) :
    (s.raise r).fault = some r := rfl

@[simp] theorem State.raise_text (s : State) (r : Fault) :
    (s.raise r).text = s.text := rfl

@[simp] theorem State.raise_params (s : State) (r : Fault) :
    (s.raise r).params = s.params := rfl

@[simp] theorem State.raise_freeChoices (s : State) (r : Fault) :
    (s.raise r).freeChoices = s.freeChoices := rfl


/-! ### `completeByChoice` -/

@[simp] theorem State.completeByChoice_regs (s : State) :
    (s.completeByChoice).regs = s.complete.regs := rfl

@[simp] theorem State.completeByChoice_n (s : State) :
    (s.completeByChoice).n = s.complete.n := rfl

@[simp] theorem State.completeByChoice_z (s : State) :
    (s.completeByChoice).z = s.complete.z := rfl

@[simp] theorem State.completeByChoice_c (s : State) :
    (s.completeByChoice).c = s.complete.c := rfl

@[simp] theorem State.completeByChoice_v (s : State) :
    (s.completeByChoice).v = s.complete.v := rfl

@[simp] theorem State.completeByChoice_dit (s : State) :
    (s.completeByChoice).dit = s.complete.dit := rfl

@[simp] theorem State.completeByChoice_cpacr (s : State) :
    (s.completeByChoice).cpacr = s.complete.cpacr := rfl

@[simp] theorem State.completeByChoice_nsacr (s : State) :
    (s.completeByChoice).nsacr = s.complete.nsacr := rfl

@[simp] theorem State.completeByChoice_hcptr (s : State) :
    (s.completeByChoice).hcptr = s.complete.hcptr := rfl

@[simp] theorem State.completeByChoice_securityState (s : State) :
    (s.completeByChoice).securityState = s.complete.securityState := rfl

@[simp] theorem State.completeByChoice_peMode (s : State) :
    (s.completeByChoice).peMode = s.complete.peMode := rfl

@[simp] theorem State.completeByChoice_iset (s : State) :
    (s.completeByChoice).iset = s.complete.iset := rfl

@[simp] theorem State.completeByChoice_pc (s : State) :
    (s.completeByChoice).pc = s.complete.pc := rfl

@[simp] theorem State.completeByChoice_condContext (s : State) :
    (s.completeByChoice).condContext = s.complete.condContext := rfl

@[simp] theorem State.completeByChoice_fault (s : State) :
    (s.completeByChoice).fault = s.complete.fault := rfl

@[simp] theorem State.completeByChoice_text (s : State) :
    (s.completeByChoice).text = s.complete.text := rfl

@[simp] theorem State.completeByChoice_params (s : State) :
    (s.completeByChoice).params = s.complete.params := rfl

@[simp] theorem State.completeByChoice_freeChoices (s : State) :
    (s.completeByChoice).freeChoices = s.freeChoices + 1 := rfl


/-! ### `loadWord` -/

@[simp] theorem State.loadWord_regs (s : State) (w : Word) :
    (s.loadWord w).regs = s.regs := rfl

@[simp] theorem State.loadWord_n (s : State) (w : Word) :
    (s.loadWord w).n = s.n := rfl

@[simp] theorem State.loadWord_z (s : State) (w : Word) :
    (s.loadWord w).z = s.z := rfl

@[simp] theorem State.loadWord_c (s : State) (w : Word) :
    (s.loadWord w).c = s.c := rfl

@[simp] theorem State.loadWord_v (s : State) (w : Word) :
    (s.loadWord w).v = s.v := rfl

@[simp] theorem State.loadWord_dit (s : State) (w : Word) :
    (s.loadWord w).dit = s.dit := rfl

@[simp] theorem State.loadWord_cpacr (s : State) (w : Word) :
    (s.loadWord w).cpacr = s.cpacr := rfl

@[simp] theorem State.loadWord_nsacr (s : State) (w : Word) :
    (s.loadWord w).nsacr = s.nsacr := rfl

@[simp] theorem State.loadWord_hcptr (s : State) (w : Word) :
    (s.loadWord w).hcptr = s.hcptr := rfl

@[simp] theorem State.loadWord_securityState (s : State) (w : Word) :
    (s.loadWord w).securityState = s.securityState := rfl

@[simp] theorem State.loadWord_peMode (s : State) (w : Word) :
    (s.loadWord w).peMode = s.peMode := rfl

@[simp] theorem State.loadWord_iset (s : State) (w : Word) :
    (s.loadWord w).iset = (isetOfWord w).getD s.iset := rfl

@[simp] theorem State.loadWord_pc (s : State) (w : Word) :
    (s.loadWord w).pc = s.pc := rfl

@[simp] theorem State.loadWord_condContext (s : State) (w : Word) :
    (s.loadWord w).condContext = s.condContext := rfl

@[simp] theorem State.loadWord_fault (s : State) (w : Word) :
    (s.loadWord w).fault = s.fault := rfl

@[simp] theorem State.loadWord_text (s : State) (w : Word) :
    (s.loadWord w).text = storeWord ((isetOfWord w).getD s.iset) w s.pc s.text := rfl

@[simp] theorem State.loadWord_params (s : State) (w : Word) :
    (s.loadWord w).params = defaultFetchAt (s.loadWord w).fetchInputs s.params := rfl

@[simp] theorem State.loadWord_freeChoices (s : State) (w : Word) :
    (s.loadWord w).freeChoices = s.freeChoices := rfl

/-! ### `advanceCond` -/

@[simp] theorem State.advanceCond_regs (s : State) :
    s.advanceCond.regs = s.regs := by
  unfold State.advanceCond; split <;> rfl

@[simp] theorem State.advanceCond_n (s : State) :
    s.advanceCond.n = s.n := by
  unfold State.advanceCond; split <;> rfl

@[simp] theorem State.advanceCond_z (s : State) :
    s.advanceCond.z = s.z := by
  unfold State.advanceCond; split <;> rfl

@[simp] theorem State.advanceCond_c (s : State) :
    s.advanceCond.c = s.c := by
  unfold State.advanceCond; split <;> rfl

@[simp] theorem State.advanceCond_v (s : State) :
    s.advanceCond.v = s.v := by
  unfold State.advanceCond; split <;> rfl

@[simp] theorem State.advanceCond_dit (s : State) :
    s.advanceCond.dit = s.dit := by
  unfold State.advanceCond; split <;> rfl

@[simp] theorem State.advanceCond_cpacr (s : State) :
    s.advanceCond.cpacr = s.cpacr := by
  unfold State.advanceCond; split <;> rfl

@[simp] theorem State.advanceCond_nsacr (s : State) :
    s.advanceCond.nsacr = s.nsacr := by
  unfold State.advanceCond; split <;> rfl

@[simp] theorem State.advanceCond_hcptr (s : State) :
    s.advanceCond.hcptr = s.hcptr := by
  unfold State.advanceCond; split <;> rfl

@[simp] theorem State.advanceCond_securityState (s : State) :
    s.advanceCond.securityState = s.securityState := by
  unfold State.advanceCond; split <;> rfl

@[simp] theorem State.advanceCond_peMode (s : State) :
    s.advanceCond.peMode = s.peMode := by
  unfold State.advanceCond; split <;> rfl

@[simp] theorem State.advanceCond_iset (s : State) :
    s.advanceCond.iset = s.iset := by
  unfold State.advanceCond; split <;> rfl

@[simp] theorem State.advanceCond_pc (s : State) :
    s.advanceCond.pc = s.pc := by
  unfold State.advanceCond; split <;> rfl

theorem State.advanceCond_condContext (s : State) :
    s.advanceCond.condContext =
      match s.iset with
      | .a32 => s.condContext
      | .t32 => s.condContext.tail := by
  cases h : s.iset <;> simp [State.advanceCond, h]

@[simp] theorem State.advanceCond_fault (s : State) :
    s.advanceCond.fault = s.fault := by
  unfold State.advanceCond; split <;> rfl

@[simp] theorem State.advanceCond_text (s : State) :
    s.advanceCond.text = s.text := by
  unfold State.advanceCond; split <;> rfl

@[simp] theorem State.advanceCond_params (s : State) :
    s.advanceCond.params = s.params := by
  unfold State.advanceCond; split <;> rfl

@[simp] theorem State.advanceCond_freeChoices (s : State) :
    s.advanceCond.freeChoices = s.freeChoices := by
  unfold State.advanceCond; split <;> rfl

/-! ### `complete` -/

@[simp] theorem State.complete_regs (s : State) :
    s.complete.regs = s.regs := by
  simp [State.complete]

@[simp] theorem State.complete_n (s : State) :
    s.complete.n = s.n := by
  simp [State.complete]

@[simp] theorem State.complete_z (s : State) :
    s.complete.z = s.z := by
  simp [State.complete]

@[simp] theorem State.complete_c (s : State) :
    s.complete.c = s.c := by
  simp [State.complete]

@[simp] theorem State.complete_v (s : State) :
    s.complete.v = s.v := by
  simp [State.complete]

@[simp] theorem State.complete_dit (s : State) :
    s.complete.dit = s.dit := by
  simp [State.complete]

@[simp] theorem State.complete_cpacr (s : State) :
    s.complete.cpacr = s.cpacr := by
  simp [State.complete]

@[simp] theorem State.complete_nsacr (s : State) :
    s.complete.nsacr = s.nsacr := by
  simp [State.complete]

@[simp] theorem State.complete_hcptr (s : State) :
    s.complete.hcptr = s.hcptr := by
  simp [State.complete]

@[simp] theorem State.complete_securityState (s : State) :
    s.complete.securityState = s.securityState := by
  simp [State.complete]

@[simp] theorem State.complete_peMode (s : State) :
    s.complete.peMode = s.peMode := by
  simp [State.complete]

@[simp] theorem State.complete_iset (s : State) :
    s.complete.iset = s.iset := by
  simp [State.complete]

@[simp] theorem State.complete_pc (s : State) :
    s.complete.pc = s.pc + 4#32 := by
  simp [State.complete]

theorem State.complete_condContext (s : State) :
    s.complete.condContext =
      match s.iset with
      | .a32 => s.condContext
      | .t32 => s.condContext.tail := by
  simp [State.complete, State.advanceCond_condContext]

@[simp] theorem State.complete_fault (s : State) :
    s.complete.fault = s.fault := by
  simp [State.complete]

@[simp] theorem State.complete_text (s : State) :
    s.complete.text = s.text := by
  simp [State.complete]

@[simp] theorem State.complete_params (s : State) :
    s.complete.params = s.params := by
  simp [State.complete]

@[simp] theorem State.complete_freeChoices (s : State) :
    s.complete.freeChoices = s.freeChoices := by
  simp [State.complete]

/-! ### `clearRegs` -/

@[simp] theorem State.clearRegs_n (m : DWord) (k : Nat) (d : RegNum) (s : State) :
    (s.clearRegs m k d).n = s.n := by
  induction k generalizing d s with
  | zero => rfl
  | succ k ih => simp [State.clearRegs, ih]

@[simp] theorem State.clearRegs_z (m : DWord) (k : Nat) (d : RegNum) (s : State) :
    (s.clearRegs m k d).z = s.z := by
  induction k generalizing d s with
  | zero => rfl
  | succ k ih => simp [State.clearRegs, ih]

@[simp] theorem State.clearRegs_c (m : DWord) (k : Nat) (d : RegNum) (s : State) :
    (s.clearRegs m k d).c = s.c := by
  induction k generalizing d s with
  | zero => rfl
  | succ k ih => simp [State.clearRegs, ih]

@[simp] theorem State.clearRegs_v (m : DWord) (k : Nat) (d : RegNum) (s : State) :
    (s.clearRegs m k d).v = s.v := by
  induction k generalizing d s with
  | zero => rfl
  | succ k ih => simp [State.clearRegs, ih]

@[simp] theorem State.clearRegs_dit (m : DWord) (k : Nat) (d : RegNum) (s : State) :
    (s.clearRegs m k d).dit = s.dit := by
  induction k generalizing d s with
  | zero => rfl
  | succ k ih => simp [State.clearRegs, ih]

@[simp] theorem State.clearRegs_cpacr (m : DWord) (k : Nat) (d : RegNum) (s : State) :
    (s.clearRegs m k d).cpacr = s.cpacr := by
  induction k generalizing d s with
  | zero => rfl
  | succ k ih => simp [State.clearRegs, ih]

@[simp] theorem State.clearRegs_nsacr (m : DWord) (k : Nat) (d : RegNum) (s : State) :
    (s.clearRegs m k d).nsacr = s.nsacr := by
  induction k generalizing d s with
  | zero => rfl
  | succ k ih => simp [State.clearRegs, ih]

@[simp] theorem State.clearRegs_hcptr (m : DWord) (k : Nat) (d : RegNum) (s : State) :
    (s.clearRegs m k d).hcptr = s.hcptr := by
  induction k generalizing d s with
  | zero => rfl
  | succ k ih => simp [State.clearRegs, ih]

@[simp] theorem State.clearRegs_securityState (m : DWord) (k : Nat) (d : RegNum) (s : State) :
    (s.clearRegs m k d).securityState = s.securityState := by
  induction k generalizing d s with
  | zero => rfl
  | succ k ih => simp [State.clearRegs, ih]

@[simp] theorem State.clearRegs_peMode (m : DWord) (k : Nat) (d : RegNum) (s : State) :
    (s.clearRegs m k d).peMode = s.peMode := by
  induction k generalizing d s with
  | zero => rfl
  | succ k ih => simp [State.clearRegs, ih]

@[simp] theorem State.clearRegs_iset (m : DWord) (k : Nat) (d : RegNum) (s : State) :
    (s.clearRegs m k d).iset = s.iset := by
  induction k generalizing d s with
  | zero => rfl
  | succ k ih => simp [State.clearRegs, ih]

@[simp] theorem State.clearRegs_pc (m : DWord) (k : Nat) (d : RegNum) (s : State) :
    (s.clearRegs m k d).pc = s.pc := by
  induction k generalizing d s with
  | zero => rfl
  | succ k ih => simp [State.clearRegs, ih]

@[simp] theorem State.clearRegs_condContext (m : DWord) (k : Nat) (d : RegNum) (s : State) :
    (s.clearRegs m k d).condContext = s.condContext := by
  induction k generalizing d s with
  | zero => rfl
  | succ k ih => simp [State.clearRegs, ih]

@[simp] theorem State.clearRegs_fault (m : DWord) (k : Nat) (d : RegNum) (s : State) :
    (s.clearRegs m k d).fault = s.fault := by
  induction k generalizing d s with
  | zero => rfl
  | succ k ih => simp [State.clearRegs, ih]

@[simp] theorem State.clearRegs_text (m : DWord) (k : Nat) (d : RegNum) (s : State) :
    (s.clearRegs m k d).text = s.text := by
  induction k generalizing d s with
  | zero => rfl
  | succ k ih => simp [State.clearRegs, ih]

@[simp] theorem State.clearRegs_params (m : DWord) (k : Nat) (d : RegNum) (s : State) :
    (s.clearRegs m k d).params = s.params := by
  induction k generalizing d s with
  | zero => rfl
  | succ k ih => simp [State.clearRegs, ih]

@[simp] theorem State.clearRegs_freeChoices (m : DWord) (k : Nat) (d : RegNum) (s : State) :
    (s.clearRegs m k d).freeChoices = s.freeChoices := by
  induction k generalizing d s with
  | zero => rfl
  | succ k ih => simp [State.clearRegs, ih]

/-! ### `clearOperand` -/

@[simp] theorem State.clearOperand_n (s : State) (q : Bool) (d : RegNum) (cmode : BitVec 4)
    (imm8 : BitVec 8) : (s.clearOperand q d cmode imm8).n = s.n := by
  simp [State.clearOperand]

@[simp] theorem State.clearOperand_z (s : State) (q : Bool) (d : RegNum) (cmode : BitVec 4)
    (imm8 : BitVec 8) : (s.clearOperand q d cmode imm8).z = s.z := by
  simp [State.clearOperand]

@[simp] theorem State.clearOperand_c (s : State) (q : Bool) (d : RegNum) (cmode : BitVec 4)
    (imm8 : BitVec 8) : (s.clearOperand q d cmode imm8).c = s.c := by
  simp [State.clearOperand]

@[simp] theorem State.clearOperand_v (s : State) (q : Bool) (d : RegNum) (cmode : BitVec 4)
    (imm8 : BitVec 8) : (s.clearOperand q d cmode imm8).v = s.v := by
  simp [State.clearOperand]

@[simp] theorem State.clearOperand_dit (s : State) (q : Bool) (d : RegNum) (cmode : BitVec 4)
    (imm8 : BitVec 8) : (s.clearOperand q d cmode imm8).dit = s.dit := by
  simp [State.clearOperand]

@[simp] theorem State.clearOperand_cpacr (s : State) (q : Bool) (d : RegNum) (cmode : BitVec 4)
    (imm8 : BitVec 8) : (s.clearOperand q d cmode imm8).cpacr = s.cpacr := by
  simp [State.clearOperand]

@[simp] theorem State.clearOperand_nsacr (s : State) (q : Bool) (d : RegNum) (cmode : BitVec 4)
    (imm8 : BitVec 8) : (s.clearOperand q d cmode imm8).nsacr = s.nsacr := by
  simp [State.clearOperand]

@[simp] theorem State.clearOperand_hcptr (s : State) (q : Bool) (d : RegNum) (cmode : BitVec 4)
    (imm8 : BitVec 8) : (s.clearOperand q d cmode imm8).hcptr = s.hcptr := by
  simp [State.clearOperand]

@[simp] theorem State.clearOperand_securityState (s : State) (q : Bool) (d : RegNum) (cmode : BitVec 4)
    (imm8 : BitVec 8) : (s.clearOperand q d cmode imm8).securityState = s.securityState := by
  simp [State.clearOperand]

@[simp] theorem State.clearOperand_peMode (s : State) (q : Bool) (d : RegNum) (cmode : BitVec 4)
    (imm8 : BitVec 8) : (s.clearOperand q d cmode imm8).peMode = s.peMode := by
  simp [State.clearOperand]

@[simp] theorem State.clearOperand_iset (s : State) (q : Bool) (d : RegNum) (cmode : BitVec 4)
    (imm8 : BitVec 8) : (s.clearOperand q d cmode imm8).iset = s.iset := by
  simp [State.clearOperand]

@[simp] theorem State.clearOperand_pc (s : State) (q : Bool) (d : RegNum) (cmode : BitVec 4)
    (imm8 : BitVec 8) : (s.clearOperand q d cmode imm8).pc = s.pc := by
  simp [State.clearOperand]

@[simp] theorem State.clearOperand_condContext (s : State) (q : Bool) (d : RegNum) (cmode : BitVec 4)
    (imm8 : BitVec 8) : (s.clearOperand q d cmode imm8).condContext = s.condContext := by
  simp [State.clearOperand]

@[simp] theorem State.clearOperand_fault (s : State) (q : Bool) (d : RegNum) (cmode : BitVec 4)
    (imm8 : BitVec 8) : (s.clearOperand q d cmode imm8).fault = s.fault := by
  simp [State.clearOperand]

@[simp] theorem State.clearOperand_text (s : State) (q : Bool) (d : RegNum) (cmode : BitVec 4)
    (imm8 : BitVec 8) : (s.clearOperand q d cmode imm8).text = s.text := by
  simp [State.clearOperand]

@[simp] theorem State.clearOperand_params (s : State) (q : Bool) (d : RegNum) (cmode : BitVec 4)
    (imm8 : BitVec 8) : (s.clearOperand q d cmode imm8).params = s.params := by
  simp [State.clearOperand]

@[simp] theorem State.clearOperand_freeChoices (s : State) (q : Bool) (d : RegNum) (cmode : BitVec 4)
    (imm8 : BitVec 8) : (s.clearOperand q d cmode imm8).freeChoices = s.freeChoices := by
  simp [State.clearOperand]

end Sys2Proof.Machine
end

