-- ==== Sys2Proof/Laws/Ops.lean ====
section
/-! SUPPORT. What each shared operation can do, said once. -/

namespace Sys2Proof.Machine

/-! ### Registers -/

@[simp] theorem State.readD_writeD_same (s : State) (n : RegNum) (x : DWord) :
    (s.writeD n x).readD n = x := by
  simp [State.readD]

theorem State.readD_writeD_ne (s : State) (k n : RegNum) (x : DWord) (h : n ≠ k) :
    (s.writeD k x).readD n = s.readD n := by
  have hk : k.toNat ≠ n.toNat := fun e => h (BitVec.eq_of_toNat_eq e.symm)
  simp [State.readD, hk]

/-- Reading a register looks at the register file only. -/
theorem State.readD_congr {s t : State} (h : t.regs = s.regs) (n : RegNum) : t.readD n = s.readD n := by
  simp [State.readD, h]

@[simp] theorem State.readD_advancePc (s : State) (n : RegNum) : s.advancePc.readD n = s.readD n := rfl

@[simp] theorem State.readD_raise (s : State) (r : Fault) (n : RegNum) :
    (s.raise r).readD n = s.readD n := rfl

@[simp] theorem State.readD_complete (s : State) (n : RegNum) : s.complete.readD n = s.readD n :=
  State.readD_congr (by simp) n

@[simp] theorem State.readD_completeByChoice (s : State) (n : RegNum) :
    s.completeByChoice.readD n = s.readD n :=
  State.readD_congr (by simp) n

/-- The register after an even one is its successor (R44, R47). -/
theorem even_succ_ne (d : RegNum) : d + 1#5 ≠ d := by
  revert d; decide

/-! ### The operand -/

theorem State.clearOperand_double (s : State) (d : RegNum) (cmode : BitVec 4) (imm8 : BitVec 8) :
    s.clearOperand false d cmode imm8 =
      s.writeD d (bitClear (s.readD d) (s.imm64 cmode imm8)) := rfl

theorem State.clearOperand_quad (s : State) (d : RegNum) (cmode : BitVec 4) (imm8 : BitVec 8) :
    s.clearOperand true d cmode imm8 =
      (s.writeD d (bitClear (s.readD d) (s.imm64 cmode imm8))).writeD (d + 1#5)
        (bitClear (s.readD (d + 1#5)) (s.imm64 cmode imm8)) := by
  simp [State.clearOperand, regsOf, State.clearRegs, State.readD_writeD_ne _ _ _ _ (even_succ_ne d)]

/-! ### The condition check -/

theorem State.conditionPassed_a32 {s : State} (h : s.iset = .a32) : s.conditionPassed = true := by
  simp [State.conditionPassed, h]

theorem State.complete_a32 {s : State} (h : s.iset = .a32) : s.complete = s.advancePc := by
  simp [State.complete, State.advanceCond, h]

/-! ### The meanings -/

/-- The outcomes of an UNDEFINED encoding whose condition fails (R93). -/
theorem oddQConditionFailed_cases (s : State) :
    oddQConditionFailed s = s.complete ∨
    oddQConditionFailed s = s.raise (.undefined .oddQRegister) ∨
    oddQConditionFailed s = s.completeByChoice := by
  unfold oddQConditionFailed
  split
  · exact .inl rfl
  · exact .inr (.inl rfl)
  · split
    · exact .inr (.inl rfl)
    · exact .inr (.inr rfl)

/-- Everything an UNDEFINED encoding can do (R90, R93). -/
theorem oddQRegister_cases {s t : State} (h : oddQRegister s = .next t) :
    t = s.raise (.undefined .oddQRegister) ∨
    (s.conditionPassed = false ∧ (t = s.complete ∨ t = s.completeByChoice)) := by
  simp only [oddQRegister, Host.Outcome.next.injEq] at h
  subst h
  split
  · exact .inl rfl
  · rename_i hc
    simp only [Bool.not_eq_true] at hc
    rcases oddQConditionFailed_cases s with h | h | h
    · exact .inr ⟨hc, .inl h⟩
    · exact .inl h
    · exact .inr ⟨hc, .inr h⟩

/-- Everything the eight encodings can do once the register number is one the form admits (R63). -/
theorem vbicImmediate_cases {q : Bool} {d : RegNum} {cmode : BitVec 4} {imm8 : BitVec 8} {s t : State}
    (hq : (q && !isEvenReg d) = false) (h : vbicImmediate q d cmode imm8 s = .next t) :
    (s.conditionPassed = true ∧ s.simdCheck = .enabled ∧ t = (s.clearOperand q d cmode imm8).complete) ∨
    (s.conditionPassed = true ∧ s.simdCheck = .undefined ∧ t = s.raise (.undefined .simdDisabled)) ∨
    (s.conditionPassed = true ∧ s.simdCheck = .hypTrap ∧ t = s.raise .hypTrap) ∨
    (s.conditionPassed = false ∧ t = s.complete) := by
  simp only [vbicImmediate, hq, Bool.false_eq_true, if_false, Host.Outcome.next.injEq] at h
  subst h
  split
  · rename_i hc
    unfold vbicEnabledPart
    split <;> simp_all
  · rename_i hc
    exact .inr (.inr (.inr ⟨by simpa using hc, rfl⟩))

/-- The odd-register form of a 128-bit encoding is the UNDEFINED encoding's (R58). -/
theorem vbicImmediate_odd {q : Bool} {d : RegNum} {cmode : BitVec 4} {imm8 : BitVec 8} {s : State}
    (hq : (q && !isEvenReg d) = true) : vbicImmediate q d cmode imm8 s = oddQRegister s := by
  simp only [vbicImmediate, hq, if_true]

end Sys2Proof.Machine
end

