-- ==== Sys2Proof/Laws/Exec.lean ====
section
/-! SUPPORT. The twelve arms of `exec`, in two shapes. -/

namespace Sys2Proof.Machine

/-- An instruction of the eight encodings runs the shared operation on its own fields (R63). -/
theorem exec_vbic {i : Instr} (h : i.isUndefined = false) (s : State) :
    exec i s = vbicImmediate i.isQ i.reg i.cmode i.imm8 s := by
  cases i <;> first | rfl | cases h

/-- An instruction of an UNDEFINED subspace (R90). -/
theorem exec_undefined {i : Instr} (h : i.isUndefined = true) (s : State) :
    exec i s = oddQRegister s := by
  cases i <;> first | rfl | cases h

/-- A well-formed instruction of the eight encodings has a register number its form admits (R47). -/
theorem wellFormed_reg {i : Instr} (hw : wellFormed i = true) (h : i.isUndefined = false) :
    (i.isQ && !isEvenReg i.reg) = false := by
  cases i <;> simp_all [wellFormed, Instr.isUndefined, Instr.isQ, Instr.reg]

/-- Everything an instruction can do (R63): raise one of the three faults; complete without a register
write; complete by the free choice of rule R93, which no well-formed instruction of the eight encodings
takes; or complete with its operand cleared. -/
theorem exec_cases {i : Instr} {s t : State} (h : exec i s = .next t) :
    (∃ r, t = s.raise r ∧
      (r = .undefined .oddQRegister ∨ r = .undefined .simdDisabled ∨ r = .hypTrap)) ∨
    t = s.complete ∨
    (t = s.completeByChoice ∧ (i.isUndefined = true ∨ wellFormed i = false)) ∨
    (i.isUndefined = false ∧ s.conditionPassed = true ∧ s.simdCheck = .enabled ∧
      (i.isQ && !isEvenReg i.reg) = false ∧
      t = (s.clearOperand i.isQ i.reg i.cmode i.imm8).complete) := by
  cases hu : i.isUndefined
  · rw [exec_vbic hu] at h
    cases hq : (i.isQ && !isEvenReg i.reg)
    · rcases vbicImmediate_cases hq h with ⟨hc, he, rfl⟩ | ⟨_, _, rfl⟩ | ⟨_, _, rfl⟩ | ⟨_, rfl⟩
      · exact .inr (.inr (.inr ⟨rfl, hc, he, rfl, rfl⟩))
      · exact .inl ⟨_, rfl, .inr (.inl rfl)⟩
      · exact .inl ⟨_, rfl, .inr (.inr rfl)⟩
      · exact .inr (.inl rfl)
    · rw [vbicImmediate_odd hq] at h
      rcases oddQRegister_cases h with rfl | ⟨_, rfl | rfl⟩
      · exact .inl ⟨_, rfl, .inl rfl⟩
      · exact .inr (.inl rfl)
      · refine .inr (.inr (.inl ⟨rfl, .inr (Bool.eq_false_iff.2 fun hw => ?_)⟩))
        rw [wellFormed_reg hw hu] at hq
        cases hq
  · rw [exec_undefined hu] at h
    rcases oddQRegister_cases h with rfl | ⟨_, rfl | rfl⟩
    · exact .inl ⟨_, rfl, .inl rfl⟩
    · exact .inr (.inl rfl)
    · exact .inr (.inr (.inl ⟨rfl, .inl rfl⟩))

/-- A step that answers a next state ran an instruction in a state with no fault (R63, R95). -/
theorem step_next {s t : State} (h : step s = .next t) :
    s.fault = none ∧ s.aligned = true ∧ ∃ w i, s.fetch = some w ∧ decode s.iset w = .instr i ∧
      exec i s = .next t := by
  unfold step at h
  split at h
  · cases h
  · rename_i hf
    split at h
    · rename_i ha
      split at h
      · rename_i w hw
        refine ⟨hf, ha, w, ?_⟩
        unfold runDecoded at h
        split at h
        · rename_i i hi
          exact ⟨i, hw, hi, h⟩
        · cases h
        · cases h
      · cases h
    · cases h

end Sys2Proof.Machine
end

