-- ==== Sys2Proof/Laws/Memory.lean ====
section
/-! SUPPORT. The laws of the program text: read after write, and the canonical form is kept. -/

namespace Sys2Proof.Machine

@[simp] theorem Memory.read_write_same (m : Memory) (k : Nat) (x : Byte) :
    (m.write k x).read k = some x := by
  induction m with
  | nil => simp [Memory.write, Memory.read]
  | cons c rest ih =>
    obtain ⟨a, b⟩ := c
    unfold Memory.write
    split
    · simp [Memory.read]
    · split
      · simp [Memory.read]
      · rename_i h
        simp [Memory.read, h, ih]

theorem Memory.read_write_other (m : Memory) (k j : Nat) (x : Byte) (h : j ≠ k) :
    (m.write k x).read j = m.read j := by
  induction m with
  | nil => simp [Memory.write, Memory.read, h]
  | cons c rest ih =>
    obtain ⟨a, b⟩ := c
    unfold Memory.write
    split
    · simp [Memory.read, h]
    · split
      · rename_i hk
        simp [Memory.read, ← hk, h]
      · simp [Memory.read, ih]

/-- Every address listed after a write was listed before it, or is the written one. -/
theorem Memory.mem_write {m : Memory} {k : Nat} {x : Byte} {c : Host.Cell} (h : c ∈ m.write k x) :
    c.1 = k ∨ c ∈ m := by
  induction m with
  | nil => simp_all [Memory.write]
  | cons e rest ih =>
    obtain ⟨a, b⟩ := e
    unfold Memory.write at h
    split at h
    · simp only [List.mem_cons] at h ⊢
      rcases h with rfl | h
      · exact .inl rfl
      · exact .inr h
    · split at h
      · simp only [List.mem_cons] at h ⊢
        rcases h with rfl | h
        · exact .inl rfl
        · exact .inr (.inr h)
      · simp only [List.mem_cons] at h ⊢
        rcases h with rfl | h
        · exact .inr (.inl rfl)
        · exact (ih h).imp_right .inr

/-- A write keeps the canonical form. -/
theorem Memory.write_wf {m : Memory} {k : Nat} {x : Byte} (hk : k < 2 ^ 32) (h : m.wf) :
    (m.write k x).wf := by
  refine ⟨?_, fun c hc => ?_⟩
  · replace h := h.1
    induction m with
    | nil => simp [Memory.write]
    | cons e rest ih =>
      obtain ⟨a, b⟩ := e
      obtain ⟨hlt, hrest⟩ := List.pairwise_cons.mp h
      unfold Memory.write
      split
      · rename_i hka
        refine List.pairwise_cons.mpr ⟨fun c hc => ?_, h⟩
        rcases List.mem_cons.mp hc with rfl | hc
        · exact hka
        · exact Nat.lt_trans hka (hlt c hc)
      · split
        · rename_i hka
          exact List.pairwise_cons.mpr ⟨fun c hc => hka ▸ hlt c hc, hrest⟩
        · refine List.pairwise_cons.mpr ⟨fun c hc => ?_, ih hrest⟩
          rcases Memory.mem_write hc with hc | hc
          · simp only [hc]; omega
          · exact hlt c hc
  · rcases Memory.mem_write hc with hc | hc
    · omega
    · exact h.2 c hc

/-- Storing an instruction keeps the canonical form. -/
theorem storeWord_wf (iset : ISet) (w : Word) (a : Addr) {m : Memory} (h : m.wf) :
    (storeWord iset w a m).wf :=
  Memory.write_wf (BitVec.isLt _) (Memory.write_wf (BitVec.isLt _)
    (Memory.write_wf (BitVec.isLt _) (Memory.write_wf (BitVec.isLt _) h)))

/-- Storing an instruction changes no byte outside its four. -/
theorem storeWord_read_other (iset : ISet) (w : Word) (a : Addr) (m : Memory) (j : Nat)
    (h0 : j ≠ a.toNat) (h1 : j ≠ (a + 1#32).toNat) (h2 : j ≠ (a + 2#32).toNat)
    (h3 : j ≠ (a + 3#32).toNat) : (storeWord iset w a m).read j = m.read j := by
  simp only [storeWord, Memory.read_write_other _ _ _ _ h0, Memory.read_write_other _ _ _ _ h1,
    Memory.read_write_other _ _ _ _ h2, Memory.read_write_other _ _ _ _ h3]

/-! ### Fetch -/

/-- Everything a fetch can do: the word of `P_FETCH`, if the four bytes are there. -/
theorem State.fetch_eq_some_iff (s : State) (w : Word) :
    s.fetch = some w ↔ ∃ b0 b1 b2 b3, s.textByte s.pc = some b0 ∧ s.textByte (s.pc + 1#32) = some b1 ∧
      s.textByte (s.pc + 2#32) = some b2 ∧ s.textByte (s.pc + 3#32) = some b3 ∧
      fetchWord s.params s.fetchInputs b0 b1 b2 b3 = w := by
  unfold State.fetch
  split
  · simp_all
  · rename_i h
    simp only [reduceCtorEq, false_iff]
    rintro ⟨b0, b1, b2, b3, h0, h1, h2, h3, _⟩
    exact h b0 b1 b2 b3 h0 h1 h2 h3

/-- With no row of the key, a table answers its default. -/
theorem lookupOr_of_not_mem {κ ν : Type} [DecidableEq κ] (rows : List (κ × ν)) (k : κ) (x : ν)
    (h : ∀ row ∈ rows, row.1 ≠ k) : lookupOr rows k x = x := by
  induction rows with
  | nil => rfl
  | cons row rest ih =>
    have hk : k ≠ row.1 := (h row List.mem_cons_self).symm
    simpa [lookupOr, hk] using ih fun r hr => h r (List.mem_cons_of_mem _ hr)

/-- Rows of one key taken out leave the table as it was at every other key. -/
theorem lookupOr_filter_ne {κ ν : Type} [DecidableEq κ] (rows : List (κ × ν)) (k j : κ) (x : ν)
    (h : k ≠ j) : lookupOr (rows.filter fun row => row.1 ≠ j) k x = lookupOr rows k x := by
  induction rows with
  | nil => rfl
  | cons row rest ih =>
    by_cases hj : row.1 = j
    · have hk : k ≠ row.1 := fun e => h (e.trans hj)
      simpa [hj, lookupOr, hk, h] using ih
    · by_cases hk : k = row.1 <;> simp_all [lookupOr]

/-- With the default taken at an argument, the fetch there is the default layout (R32, R33). -/
@[simp] theorem fetchWord_defaultFetchAt_same (p : Params) (inputs : FetchInputs) (b0 b1 b2 b3 : Byte) :
    fetchWord (defaultFetchAt inputs p) inputs b0 b1 b2 b3 = wordOfBytes inputs.iset b0 b1 b2 b3 :=
  lookupOr_of_not_mem _ _ _ fun _ hr => by simpa using (List.mem_filter.mp hr).2

theorem fetchWord_defaultFetchAt_other (p : Params) (inputs k : FetchInputs) (b0 b1 b2 b3 : Byte)
    (h : k ≠ inputs) :
    fetchWord (defaultFetchAt inputs p) k b0 b1 b2 b3 = fetchWord p k b0 b1 b2 b3 :=
  lookupOr_filter_ne _ _ _ _ h

/-- The reset state's program text is in canonical form. -/
theorem reset_text_wf : State.reset.text.wf :=
  ⟨List.Pairwise.nil, fun _ h => nomatch h⟩

end Sys2Proof.Machine
end

