-- ==== Sys2Proof/Laws/PerInstr.lean ====
section
/-! SUPPORT. The statements made per instruction: the family `RowOfEncoding`, that the encoder places the
constant bits of an instruction's row of the opcode table. -/

namespace Sys2Proof.Laws

/-- Bit `k` of an encoded word, read off the diagram of R39 (A32). -/
theorem encodeFields_bit_a32 (q : Bool) (d : RegNum) (cmode : BitVec 4) (imm8 : BitVec 8) (k : Nat) :
    (encodeFields .a32 q d cmode imm8).getLsbD k =
      (decide (k < 32) &&
        (0b1111001#7 ++ imm8.extractLsb' 7 1 ++ 1#1 ++ d.extractLsb' 4 1 ++ 0b000#3 ++ imm8.extractLsb' 4 3
          ++ d.extractLsb' 0 4 ++ cmode ++ 0#1 ++ BitVec.ofBool q ++ 1#1 ++ 1#1
          ++ imm8.extractLsb' 0 4).getLsbD k) := by
  simp only [encodeFields, BitVec.getLsbD_setWidth]

/-- Bit `k` of an encoded word, read off the diagram of R40 (T32). -/
theorem encodeFields_bit_t32 (q : Bool) (d : RegNum) (cmode : BitVec 4) (imm8 : BitVec 8) (k : Nat) :
    (encodeFields .t32 q d cmode imm8).getLsbD k =
      (decide (k < 32) &&
        (0b111#3 ++ imm8.extractLsb' 7 1 ++ 0b11111#5 ++ d.extractLsb' 4 1 ++ 0b000#3 ++ imm8.extractLsb' 4 3
          ++ d.extractLsb' 0 4 ++ cmode ++ 0#1 ++ BitVec.ofBool q ++ 1#1 ++ 1#1
          ++ imm8.extractLsb' 0 4).getLsbD k) := by
  simp only [encodeFields, BitVec.getLsbD_setWidth]

/-- The word of a well-formed instruction has the constant bits of its row (R46, R48, R55). -/
def RowOfEncoding.Statement (i : Instr) : Prop :=
  wellFormed i = true → i.row.matchesWord (encode i) = true

theorem RowOfEncoding.vbicA1D (d : RegNum) (cmode : BitVec 4) (imm8 : BitVec 8) :
    RowOfEncoding.Statement (.vbicA1D d cmode imm8) := by
  intro h
  simp only [wellFormed, isClass1, Bool.and_eq_true, Bool.not_eq_true'] at h
  refine beq_iff_eq.mpr (BitVec.eq_of_getLsbD_eq fun k hk => ?_)
  simp only [encode, Instr.row, Instr.iset, Instr.isQ, Instr.reg, Instr.cmode, Instr.imm8,
    BitVec.getLsbD_and, encodeFields_bit_a32, BitVec.getLsbD_append, BitVec.getLsbD_extractLsb']
  interval_cases k <;> simp_all

theorem RowOfEncoding.vbicA1Q (d : RegNum) (cmode : BitVec 4) (imm8 : BitVec 8) :
    RowOfEncoding.Statement (.vbicA1Q d cmode imm8) := by
  intro h
  simp only [wellFormed, isClass1, isEvenReg, Bool.and_eq_true, Bool.not_eq_true'] at h
  refine beq_iff_eq.mpr (BitVec.eq_of_getLsbD_eq fun k hk => ?_)
  simp only [encode, Instr.row, Instr.iset, Instr.isQ, Instr.reg, Instr.cmode, Instr.imm8,
    BitVec.getLsbD_and, encodeFields_bit_a32, BitVec.getLsbD_append, BitVec.getLsbD_extractLsb']
  interval_cases k <;> simp_all

theorem RowOfEncoding.vbicA2D (d : RegNum) (cmode : BitVec 4) (imm8 : BitVec 8) :
    RowOfEncoding.Statement (.vbicA2D d cmode imm8) := by
  intro h
  simp only [wellFormed, isClass2, Bool.and_eq_true, Bool.not_eq_true'] at h
  refine beq_iff_eq.mpr (BitVec.eq_of_getLsbD_eq fun k hk => ?_)
  simp only [encode, Instr.row, Instr.iset, Instr.isQ, Instr.reg, Instr.cmode, Instr.imm8,
    BitVec.getLsbD_and, encodeFields_bit_a32, BitVec.getLsbD_append, BitVec.getLsbD_extractLsb']
  interval_cases k <;> simp_all

theorem RowOfEncoding.vbicA2Q (d : RegNum) (cmode : BitVec 4) (imm8 : BitVec 8) :
    RowOfEncoding.Statement (.vbicA2Q d cmode imm8) := by
  intro h
  simp only [wellFormed, isClass2, isEvenReg, Bool.and_eq_true, Bool.not_eq_true'] at h
  refine beq_iff_eq.mpr (BitVec.eq_of_getLsbD_eq fun k hk => ?_)
  simp only [encode, Instr.row, Instr.iset, Instr.isQ, Instr.reg, Instr.cmode, Instr.imm8,
    BitVec.getLsbD_and, encodeFields_bit_a32, BitVec.getLsbD_append, BitVec.getLsbD_extractLsb']
  interval_cases k <;> simp_all

theorem RowOfEncoding.vbicT1D (d : RegNum) (cmode : BitVec 4) (imm8 : BitVec 8) :
    RowOfEncoding.Statement (.vbicT1D d cmode imm8) := by
  intro h
  simp only [wellFormed, isClass1, Bool.and_eq_true, Bool.not_eq_true'] at h
  refine beq_iff_eq.mpr (BitVec.eq_of_getLsbD_eq fun k hk => ?_)
  simp only [encode, Instr.row, Instr.iset, Instr.isQ, Instr.reg, Instr.cmode, Instr.imm8,
    BitVec.getLsbD_and, encodeFields_bit_t32, BitVec.getLsbD_append, BitVec.getLsbD_extractLsb']
  interval_cases k <;> simp_all

theorem RowOfEncoding.vbicT1Q (d : RegNum) (cmode : BitVec 4) (imm8 : BitVec 8) :
    RowOfEncoding.Statement (.vbicT1Q d cmode imm8) := by
  intro h
  simp only [wellFormed, isClass1, isEvenReg, Bool.and_eq_true, Bool.not_eq_true'] at h
  refine beq_iff_eq.mpr (BitVec.eq_of_getLsbD_eq fun k hk => ?_)
  simp only [encode, Instr.row, Instr.iset, Instr.isQ, Instr.reg, Instr.cmode, Instr.imm8,
    BitVec.getLsbD_and, encodeFields_bit_t32, BitVec.getLsbD_append, BitVec.getLsbD_extractLsb']
  interval_cases k <;> simp_all

theorem RowOfEncoding.vbicT2D (d : RegNum) (cmode : BitVec 4) (imm8 : BitVec 8) :
    RowOfEncoding.Statement (.vbicT2D d cmode imm8) := by
  intro h
  simp only [wellFormed, isClass2, Bool.and_eq_true, Bool.not_eq_true'] at h
  refine beq_iff_eq.mpr (BitVec.eq_of_getLsbD_eq fun k hk => ?_)
  simp only [encode, Instr.row, Instr.iset, Instr.isQ, Instr.reg, Instr.cmode, Instr.imm8,
    BitVec.getLsbD_and, encodeFields_bit_t32, BitVec.getLsbD_append, BitVec.getLsbD_extractLsb']
  interval_cases k <;> simp_all

theorem RowOfEncoding.vbicT2Q (d : RegNum) (cmode : BitVec 4) (imm8 : BitVec 8) :
    RowOfEncoding.Statement (.vbicT2Q d cmode imm8) := by
  intro h
  simp only [wellFormed, isClass2, isEvenReg, Bool.and_eq_true, Bool.not_eq_true'] at h
  refine beq_iff_eq.mpr (BitVec.eq_of_getLsbD_eq fun k hk => ?_)
  simp only [encode, Instr.row, Instr.iset, Instr.isQ, Instr.reg, Instr.cmode, Instr.imm8,
    BitVec.getLsbD_and, encodeFields_bit_t32, BitVec.getLsbD_append, BitVec.getLsbD_extractLsb']
  interval_cases k <;> simp_all

theorem RowOfEncoding.undefinedA1Q (d : RegNum) (cmode : BitVec 4) (imm8 : BitVec 8) :
    RowOfEncoding.Statement (.undefinedA1Q d cmode imm8) := by
  intro h
  simp only [wellFormed, isClass1, isEvenReg, Bool.and_eq_true, Bool.not_eq_true', Bool.not_not] at h
  refine beq_iff_eq.mpr (BitVec.eq_of_getLsbD_eq fun k hk => ?_)
  simp only [encode, Instr.row, Instr.iset, Instr.isQ, Instr.reg, Instr.cmode, Instr.imm8,
    BitVec.getLsbD_and, encodeFields_bit_a32, BitVec.getLsbD_append, BitVec.getLsbD_extractLsb']
  interval_cases k <;> simp_all

theorem RowOfEncoding.undefinedA2Q (d : RegNum) (cmode : BitVec 4) (imm8 : BitVec 8) :
    RowOfEncoding.Statement (.undefinedA2Q d cmode imm8) := by
  intro h
  simp only [wellFormed, isClass2, isEvenReg, Bool.and_eq_true, Bool.not_eq_true', Bool.not_not] at h
  refine beq_iff_eq.mpr (BitVec.eq_of_getLsbD_eq fun k hk => ?_)
  simp only [encode, Instr.row, Instr.iset, Instr.isQ, Instr.reg, Instr.cmode, Instr.imm8,
    BitVec.getLsbD_and, encodeFields_bit_a32, BitVec.getLsbD_append, BitVec.getLsbD_extractLsb']
  interval_cases k <;> simp_all

theorem RowOfEncoding.undefinedT1Q (d : RegNum) (cmode : BitVec 4) (imm8 : BitVec 8) :
    RowOfEncoding.Statement (.undefinedT1Q d cmode imm8) := by
  intro h
  simp only [wellFormed, isClass1, isEvenReg, Bool.and_eq_true, Bool.not_eq_true', Bool.not_not] at h
  refine beq_iff_eq.mpr (BitVec.eq_of_getLsbD_eq fun k hk => ?_)
  simp only [encode, Instr.row, Instr.iset, Instr.isQ, Instr.reg, Instr.cmode, Instr.imm8,
    BitVec.getLsbD_and, encodeFields_bit_t32, BitVec.getLsbD_append, BitVec.getLsbD_extractLsb']
  interval_cases k <;> simp_all

theorem RowOfEncoding.undefinedT2Q (d : RegNum) (cmode : BitVec 4) (imm8 : BitVec 8) :
    RowOfEncoding.Statement (.undefinedT2Q d cmode imm8) := by
  intro h
  simp only [wellFormed, isClass2, isEvenReg, Bool.and_eq_true, Bool.not_eq_true', Bool.not_not] at h
  refine beq_iff_eq.mpr (BitVec.eq_of_getLsbD_eq fun k hk => ?_)
  simp only [encode, Instr.row, Instr.iset, Instr.isQ, Instr.reg, Instr.cmode, Instr.imm8,
    BitVec.getLsbD_and, encodeFields_bit_t32, BitVec.getLsbD_append, BitVec.getLsbD_extractLsb']
  interval_cases k <;> simp_all

end Sys2Proof.Laws
end

