-- ==== Sys2Proof/Tests/Slice0.lean ====
section
/-! SUPPORT. Tests. Words, fields and results are those written out in spec/95_test_vectors.md (named by
section) and in the rules R64 to R71; results that show an expanded immediate hold under the default
`P_EXPAND` (log 4). The witnesses show that the hypotheses of the statements can be met. -/

namespace Sys2Proof.Machine.Tests

/-! ### WellFormed: an ill-formed term for each check -/

theorem test_illFormed_A1D_class : wellFormed (.vbicA1D 0 0b1001 0) = false := by decide
theorem test_illFormed_A1D_even_cmode : wellFormed (.vbicA1D 0 0b0010 0) = false := by decide
theorem test_illFormed_A1Q_odd : wellFormed (.vbicA1Q 1 0b0001 0) = false := by decide
theorem test_illFormed_A1Q_class : wellFormed (.vbicA1Q 0 0b1001 0) = false := by decide
theorem test_illFormed_A2D_class : wellFormed (.vbicA2D 0 0b0001 0) = false := by decide
theorem test_illFormed_A2D_cmode_1101 : wellFormed (.vbicA2D 0 0b1101 0) = false := by decide
theorem test_illFormed_A2Q_odd : wellFormed (.vbicA2Q 31 0b1001 0) = false := by decide
theorem test_illFormed_A2Q_cmode_1111 : wellFormed (.vbicA2Q 0 0b1111 0) = false := by decide
theorem test_illFormed_T1D_class : wellFormed (.vbicT1D 0 0b1011 0) = false := by decide
theorem test_illFormed_T1Q_odd : wellFormed (.vbicT1Q 3 0b0111 0) = false := by decide
theorem test_illFormed_T2D_class : wellFormed (.vbicT2D 0 0b1000 0) = false := by decide
theorem test_illFormed_T2Q_odd : wellFormed (.vbicT2Q 5 0b1011 0) = false := by decide
theorem test_illFormed_undefinedA1Q_even : wellFormed (.undefinedA1Q 0 0b0001 0) = false := by decide
theorem test_illFormed_undefinedA2Q_class : wellFormed (.undefinedA2Q 1 0b0001 0) = false := by decide
theorem test_illFormed_undefinedT1Q_class : wellFormed (.undefinedT1Q 1 0b1001 0) = false := by decide
theorem test_illFormed_undefinedT2Q_even : wellFormed (.undefinedT2Q 30 0b1001 0) = false := by decide

/-! ### Decode (95_test_vectors.md section 2; the first bits of each are written out from R39 and R40) -/

theorem test_decode_A1D_bits :
    decode .a32 0b1111001_1_1_0_000_111_0000_0001_0_0_1_1_1111#32 = .instr (.vbicA1D 0 0b0001 0xFF) := by decide
theorem test_decode_A1D_d31 : decode .a32 0xF2C0F531#32 = .instr (.vbicA1D 31 0b0101 0x01) := by decide
theorem test_decode_A1Q_bits :
    decode .a32 0b1111001_1_1_0_000_010_0010_0011_0_1_1_1_1011#32 = .instr (.vbicA1Q 2 0b0011 0xAB) := by decide
theorem test_decode_A1Q_q15 : decode .a32 0xF3C7E77F#32 = .instr (.vbicA1Q 30 0b0111 0xFF) := by decide
theorem test_decode_A2D_bits :
    decode .a32 0b1111001_1_1_1_000_000_1111_1011_0_0_1_1_0000#32 = .instr (.vbicA2D 31 0b1011 0x80) := by decide
theorem test_decode_A2Q_bits :
    decode .a32 0b1111001_0_1_0_000_000_0000_1001_0_1_1_1_1111#32 = .instr (.vbicA2Q 0 0b1001 0x0F) := by decide
theorem test_decode_T1D_bits :
    decode .t32 0b111_1_11111_0_000_111_0000_0001_0_0_1_1_1111#32 = .instr (.vbicT1D 0 0b0001 0xFF) := by decide
theorem test_decode_T1D_d16 : decode .t32 0xEFC7073F#32 = .instr (.vbicT1D 16 0b0111 0x7F) := by decide
theorem test_decode_T1Q_bits :
    decode .t32 0b111_0_11111_0_000_011_1000_0101_0_1_1_1_1100#32 = .instr (.vbicT1Q 8 0b0101 0x3C) := by decide
theorem test_decode_T2D_bits :
    decode .t32 0b111_1_11111_0_000_010_0011_1001_0_0_1_1_0101#32 = .instr (.vbicT2D 3 0b1001 0xA5) := by decide
theorem test_decode_T2Q_bits :
    decode .t32 0b111_1_11111_1_000_111_0000_1011_0_1_1_1_1111#32 = .instr (.vbicT2Q 16 0b1011 0xFF) := by decide
theorem test_decode_undefinedA1Q : decode .a32 0xF387117F#32 = .instr (.undefinedA1Q 1 0b0001 0xFF) := by decide
theorem test_decode_undefinedA2Q : decode .a32 0xF2801970#32 = .instr (.undefinedA2Q 1 0b1001 0x00) := by decide
theorem test_decode_undefinedT1Q : decode .t32 0xFFC7F77F#32 = .instr (.undefinedT1Q 31 0b0111 0xFF) := by decide
theorem test_decode_undefinedT2Q : decode .t32 0xEF80F971#32 = .instr (.undefinedT2Q 15 0b1001 0x01) := by decide

/-- Section 2.1 and 2.2: every word the spec lists as `refuse Related`. -/
theorem test_decode_related :
    ([0xF2800030#32, 0xF2800830#32, 0xF2800C30#32, 0xF2800D30#32, 0xF2800E30#32, 0xF2800F30#32,
      0xF3C7FF3F#32].all fun w => decode .a32 w == .related) &&
    ([0xEF800030#32, 0xEF800D30#32].all fun w => decode .t32 w == .related) = true := by decide

/-- Section 2.1 and 2.2: every word the spec lists as `refuse NotVBIC`. -/
theorem test_decode_notVBIC :
    ([0xF2800110#32, 0xF2800120#32, 0xF28001B0#32, 0xF2000130#32, 0xF2880130#32, 0xE2800130#32,
      0xF4800130#32, 0xFF87013F#32].all fun w => decode .a32 w == .notVBIC) &&
    ([0xEF800110#32, 0xEF8001B0#32, 0xEF000130#32, 0xCF800130#32, 0xE7800130#32,
      0xF387013F#32].all fun w => decode .t32 w == .notVBIC) = true := by decide

/-- R89: the worked assembly of `VBIC.I16 Q8, #0xFF00`. -/
theorem test_encode_T2Q : encode (.vbicT2Q 16 0b1011 0xFF) = 0xFFC70B7F#32 := by decide
theorem test_encode_A1Q : encode (.vbicA1Q 2 0b0011 0xAB) = 0xF382237B#32 := by decide

theorem test_tableWord_A32 : decodeTableWord 32 0xF2800130 = some (.vbicA1D 0 0b0001 0) := by decide
theorem test_tableWord_T32 : decodeTableWord 32 0xEF801170 = some (.undefinedT1Q 1 0b0001 0) := by decide

/-- Section 6: the bytes of an A32 and of a T32 instruction at rising addresses. -/
theorem test_bytes_A32 :
    [0, 1, 2, 3].map (wordByte .a32 0xF387013F#32) = [0x3F#8, 0x01#8, 0x87#8, 0xF3#8] := by decide
theorem test_bytes_T32 :
    [0, 1, 2, 3].map (wordByte .t32 0xEF83857C#32) = [0x83#8, 0xEF#8, 0x7C#8, 0x85#8] := by decide

/-! ### One step of each instruction (95_test_vectors.md sections 4 and 5) -/

/-- A state with two registers given, the rest as at reset. -/
def given (a : RegNum) (x : DWord) (b : RegNum) (y : DWord) : State :=
  (State.reset.writeD a x).writeD b y

/-- The two registers and the fault record after one step on a word. -/
def after (s : State) (w : Nat) (a b : RegNum) : Option (DWord × DWord × Option Fault) :=
  match step (s.withFetchWord 32 w) with
  | .next t => some (t.readD a, t.readD b, t.fault)
  | .fault _ => none
  | .refused _ => none

/-- `pc` and the number of conditions left after one step on a word. -/
def afterPc (s : State) (w : Nat) : Option (Addr × Nat) :=
  match step (s.withFetchWord 32 w) with
  | .next t => some (t.pc, t.condContext.length)
  | .fault _ => none
  | .refused _ => none

theorem test_step_A1D : after (given 0 0x123456789ABCDEF0 1 7) 0xF387013F 0 1 =
    some (0x123456009ABCDE00#64, 7#64, none) := by decide
theorem test_step_A1Q : after (given 2 0xFFFFFFFFFFFFFFFF 3 0x0000AB000000AB00) 0xF382237B 2 3 =
    some (0xFFFF54FFFFFF54FF#64, 0#64, none) := by decide
theorem test_step_A1Q_last_pair :
    after (given 30 0xFFFFFFFFFFFFFFFF 31 0x8000000080000000) 0xF3C0E770 30 31 =
      some (0x7FFFFFFF7FFFFFFF#64, 0#64, none) := by decide
theorem test_step_A2D : after (given 31 0xFFFF800012348765 30 9) 0xF3C0FB30 31 30 =
    some (0x7FFF000012340765#64, 9#64, none) := by decide
theorem test_step_A2Q : after (given 0 0xFFFFFFFFFFFFFFFF 1 0x0123456789ABCDEF) 0xF280097F 0 1 =
    some (0xFFF0FFF0FFF0FFF0#64, 0x0120456089A0CDE0#64, none) := by decide
theorem test_step_T1D : after (given 16 0xFFFFFFFFFFFFFFFF 17 5) 0xEFC7073F 16 17 =
    some (0x80FFFFFF80FFFFFF#64, 5#64, none) := by decide
theorem test_step_T1Q : after (given 8 0xFFFFFFFF00FF0000 9 0) 0xEF83857C 8 9 =
    some (0xFFC3FFFF00C30000#64, 0#64, none) := by decide
theorem test_step_T2D : after (given 3 0x00FF00A5FFFF5A5A 4 1) 0xFF823935 3 4 =
    some (0x005A0000FF5A5A5A#64, 1#64, none) := by decide
theorem test_step_T2Q : after (given 16 0x1234567890ABCDEF 17 0xFF00FF00FF00FF00) 0xFFC70B7F 16 17 =
    some (0x0034007800AB00EF#64, 0#64, none) := by decide

/-- Section 5: an UNDEFINED word writes neither the register it names nor the next, and `pc` stays. -/
theorem test_step_undefinedA1Q : after (given 1 3 2 4) 0xF387117F 1 2 =
    some (3#64, 4#64, some (.undefined .oddQRegister)) := by decide
theorem test_step_undefinedA2Q : after (given 1 3 2 4) 0xF2801970 1 2 =
    some (3#64, 4#64, some (.undefined .oddQRegister)) := by decide
theorem test_step_undefinedT1Q : after (given 1 3 2 4) 0xFF87117F 1 2 =
    some (3#64, 4#64, some (.undefined .oddQRegister)) := by decide
theorem test_step_undefinedT2Q : after (given 15 3 16 4) 0xEF80F971 15 16 =
    some (3#64, 4#64, some (.undefined .oddQRegister)) := by decide

/-- A state in which Advanced SIMD is not enabled. -/
def answering (c : SimdCheck) (s : State) : State :=
  { s with params := { defaultParams with simdOtherwise := c } }

/-- A T32 state with the given conditions before it. -/
def underConditions (tables : List (BitVec 16)) : State :=
  { given 0 0x123456789ABCDEF0 1 7 with iset := .t32, condContext := tables }

theorem test_step_disabled : after (answering .undefined (given 0 5 1 7)) 0xF387013F 0 1 =
    some (5#64, 7#64, some (.undefined .simdDisabled)) := by decide
theorem test_step_trapped : after (answering .hypTrap (given 0 5 1 7)) 0xF387013F 0 1 =
    some (5#64, 7#64, some .hypTrap) := by decide
/-- The decode UNDEFINED comes before the enable check. -/
theorem test_step_odd_before_trap : after (answering .hypTrap (given 1 5 2 7)) 0xF387117F 1 2 =
    some (5#64, 7#64, some (.undefined .oddQRegister)) := by decide
/-- A failed condition makes a no-op, even with Advanced SIMD disabled. -/
theorem test_step_condition_failed :
    after (answering .undefined (underConditions [0#16])) 0xFF87013F 0 1 =
      some (0x123456789ABCDEF0#64, 7#64, none) := by decide
theorem test_step_condition_failed_advances :
    afterPc (underConditions [0#16, 1#16]) 0xFF87013F = some (4#32, 1) := by decide
theorem test_step_condition_passed_advances :
    afterPc (underConditions [0xFFFF#16]) 0xFF87013F = some (4#32, 0) := by decide
theorem test_step_a32_keeps_conditions :
    afterPc { underConditions [0#16] with iset := .a32 } 0xF387013F = some (4#32, 1) := by decide
theorem test_step_pc_wraps :
    afterPc { given 0 1 1 1 with pc := 0xFFFFFFFC#32 } 0xF387013F = some (0#32, 0) := by decide
/-- P4b with `Nop` and with `Undefined`. -/
theorem test_step_undefined_nop :
    afterPc { underConditions [0#16] with params := { defaultParams with undefCondFail := .nop } } 0xFF87717F =
      some (4#32, 0) := by decide
theorem test_step_undefined_undefined :
    afterPc { underConditions [0#16] with params := { defaultParams with undefCondFail := .undefined } } 0xFF87717F =
      some (0#32, 1) := by decide

/-- Section 3: the default expansion of `A5` and of `80` at every `cmode`. -/
theorem test_expand_A5 :
    [0b0001#4, 0b0011#4, 0b0101#4, 0b0111#4, 0b1001#4, 0b1011#4].map
      (fun c => advSIMDExpandImm defaultParams 1#1 c 0xA5#8) =
    [0x000000A5000000A5#64, 0x0000A5000000A500#64, 0x00A5000000A50000#64, 0xA5000000A5000000#64,
      0x00A500A500A500A5#64, 0xA500A500A500A500#64] := by decide

/-- P5, third row: the answer of the enable check may differ from one step of a run to the next. -/
theorem test_simdCheck_may_vary :
    let first : SimdInputs := ⟨0, 0, 0, ⟨0⟩, .other 0, 0⟩
    let p : Params := { defaultParams with simdRows := [(first, .enabled)], simdOtherwise := .undefined }
    ({ State.reset with params := p } : State).simdCheck = .enabled ∧
    ({ State.reset with params := p, pc := 4#32 } : State).simdCheck = .undefined := by decide

/-- D4: a `P_FETCH` with the bytes of an A32 instruction in the other order. -/
theorem test_fetch_may_be_big_endian :
    let s : State := { State.reset with text := [(0, 0xF3#8), (1, 0x87#8), (2, 0x01#8), (3, 0x3F#8)] }
    let p : Params := { defaultParams with fetchRows := [(s.fetchInputs, 0xF387013F#32)] }
    s.fetch = some 0x3F0187F3#32 ∧ ({ s with params := p } : State).fetch = some 0xF387013F#32 := by decide

/-! ### Assembler (R76 to R89) -/

/-- `VBIC.I32 D0, #imm` in A32, as a line to vary. -/
def line (t : DataType) (imm : BitVec 64) : AsmLine :=
  { iset := .a32, conditional := false, width := none, dtype := t, first := none, reg := .d 0, imm := imm }

theorem test_asm_I32 : assemblesTo defaultParams (line .i32 0xFF) (.vbicA1D 0 0b0001 0xFF) = true := by decide
theorem test_asm_Q8 : assemblesTo defaultParams { line .i16 0xFF00 with iset := .t32, reg := .q 8 }
    (.vbicT2Q 16 0b1011 0xFF) = true := by decide
/-- R82: `VBIC.I32 D0, D1, #0xFF` is rejected. -/
theorem test_asm_two_registers : assemblesTo defaultParams { line .i32 0xFF with first := some (.d 1) }
    (.vbicA1D 0 0b0001 0xFF) = false := by decide
/-- R79: `.N` is rejected. -/
theorem test_asm_narrow : assemblesTo defaultParams { line .i32 0xFF with width := some .narrow }
    (.vbicA1D 0 0b0001 0xFF) = false := by decide
/-- R78: no condition in A32. -/
theorem test_asm_conditional : assemblesTo defaultParams { line .i32 0xFF with conditional := true }
    (.vbicA1D 0 0b0001 0xFF) = false := by decide
/-- R84: `VBIC.F32 D0, #2.0` is `VBIC.I32 D0, #0x40000000`. -/
theorem test_asm_F32 : assemblesTo defaultParams (line .f32 0x40000000) (.vbicA1D 0 0b0111 0x40) = true := by decide
/-- R84: the pattern of `VBIC.I16 D0, #0x12`, which no `.I32` encoding gives. -/
theorem test_asm_F32_as_I16 : assemblesTo defaultParams (line .f32 0x00120012)
    (.vbicA2D 0 0b1001 0x12) = true := by decide +kernel
/-- R84: `+0.0` expands to `VBIC.I32`, `I8` zero to `VBIC.I16`. -/
theorem test_asm_zero_one_class :
    assemblesTo defaultParams (line .f32 0) (.vbicA2D 0 0b1001 0) = false ∧
    assemblesTo defaultParams (line .i8 0) (.vbicA1D 0 0b0001 0) = false ∧
    assemblesTo defaultParams (line .f32 0) (.vbicA1D 0 0b0001 0) = true := by decide
theorem test_asm_I64 : assemblesTo defaultParams (line .i64 0x0012001200120012)
    (.vbicA2D 0 0b1001 0x12) = true := by decide
/-- A `P_EXPAND` other than the default: `.I32` with `cmode = 0001`, `imm8 = 0` gives a 1 in every byte. -/
def onesParams : Params :=
  { defaultParams with expand32 := [((0b0001#4, 0#8), 0x01010101#32)] }
/-- R84: with it an I8 constant is encoded as `.I32`, which alone gives its pattern. -/
theorem test_asm_I8_as_I32 : assemblesTo onesParams (line .i8 1) (.vbicA1D 0 0b0001 0) = true := by
  decide +kernel
/-- R87. -/
theorem test_disassemble : disassemble defaultParams (.vbicA1Q 2 0b0011 0xAB) =
    some { line .i32 0xAB00 with reg := .q 1 } := by decide

/-! ### Steps that run nothing -/

theorem test_reset_has_no_text : (match step State.reset with | .refused r => some r | _ => none) =
    some Refusal.noText := by decide
theorem test_step_related : (match step (State.reset.withFetchWord 32 0xF2800030) with
    | .refused r => some r | _ => none) = some Refusal.related := by decide
theorem test_step_notVBIC : (match step (State.reset.withFetchWord 32 0x00000000) with
    | .refused r => some r | _ => none) = some Refusal.notVBIC := by decide

/-! ### Witnesses: states and operands that meet the hypotheses of the statements

One theorem per statement that has hypotheses, named after it; one conjunct per clause. -/

theorem witness_EncodedInstructionDecodesToItself :
    wellFormed (.vbicA1D 31 0b0111 0xFF) = true ∧ wellFormed (.vbicT2Q 30 0b1011 0) = true ∧
    wellFormed (.undefinedT1Q 31 0b0001 0xFF) = true := by decide

theorem witness_DecodedWordIsTheEncodingOfItsInstruction :
    decode .a32 0xF3C0FB30#32 = .instr (.vbicA2D 31 0b1011 0x80) := by decide

theorem witness_DecodeFollowsTheOpcodeTable :
    decode .t32 0xEF83857C#32 = .instr (.vbicT1Q 8 0b0101 0x3C) ∧
    (Instr.row (.undefinedA1Q 1 0b0001 0)).matchesWord 0xF387117F#32 = true ∧
    (Instr.row (.vbicA1Q 0 0b0001 0)).matchesWord 0xF387017F#32 = true ∧
    (0xF387017F#32).getLsbD 12 = false ∧
    (Instr.row (.vbicA1D 0 0b0001 0)).matchesWord 0xF387113F#32 = true := by decide

theorem witness_OpcodeTablePatternsAreDisjoint :
    (Instr.vbicA2Q 0 0b1001 0).isUndefined = false ∧ (Instr.vbicA2Q 2 0b1011 1).isUndefined = false ∧
    (Instr.vbicA2Q 0 0b1001 0).row.matchesWord 0xF280097F#32 = true ∧
    (Instr.vbicA2Q 2 0b1011 1).row.matchesWord 0xF280097F#32 = true := by decide

theorem witness_EncodingPlacesFieldsAsTheDiagrams :
    (wellFormed (.vbicA1Q 30 0b0111 0xFF) = true ∧ (Instr.vbicA1Q 30 0b0111 0xFF).iset = .a32 ∧
      (Instr.vbicA1Q 30 0b0111 0xFF).inClass2 = false) ∧
    (wellFormed (.vbicT2D 31 0b1011 0xFF) = true ∧ (Instr.vbicT2D 31 0b1011 0xFF).iset = .t32 ∧
      (Instr.vbicT2D 31 0b1011 0xFF).inClass2 = true) := by decide

theorem witness_RefusedWordsAreRelatedOrNotVBIC :
    (let s := State.reset.withFetchWord 32 0
     s.fault = none ∧ s.aligned = true ∧ s.fetch = some 0#32 ∧ decode s.iset 0#32 = .notVBIC) ∧
    (let s := State.reset.withFetchWord 32 0xF2800D30
     s.fault = none ∧ s.aligned = true ∧ s.fetch = some 0xF2800D30#32 ∧
       decode s.iset 0xF2800D30#32 = .related) := by decide

theorem witness_RegisterOperandIsSixteenDPlusVd :
    decode .a32 0xF3C7E77F#32 = .instr (.vbicA1Q 30 0b0111 0xFF) ∧ (0xF3C7E77F#32).getLsbD 6 = true ∧
    (Instr.vbicA1Q 30 0b0111 0xFF).isUndefined = false ∧
    ∃ t, exec (.vbicA1Q 30 0b0111 0xFF) (given 30 0 31 0xFF000000) = .next t ∧
      t.readD 31 ≠ (given 30 0 31 0xFF000000).readD 31 :=
  ⟨by decide, by decide, by decide, _, rfl, by decide⟩

theorem witness_ImmediateIsIImm3Imm4 :
    decode .t32 0xFF823935#32 = .instr (.vbicT2D 3 0b1001 0xA5) ∧
    (underConditions [0xFFFF]).conditionPassed = true ∧ (underConditions [0xFFFF]).simdCheck = .enabled ∧
    (Instr.vbicT2D 3 0b1001 0xA5).isUndefined = false := by decide

theorem witness_CmodeSelectsTheClass :
    (0xF2800730#32 &&& groupMask .a32 = groupMatch .a32 ∧
      (0xF2800730#32).extractLsb' 8 4 ∈ [0b0001#4, 0b0011#4, 0b0101#4, 0b0111#4]) ∧
    (0xEF800B30#32 &&& groupMask .t32 = groupMatch .t32 ∧
      (0xEF800B30#32).extractLsb' 8 4 ∈ [0b1001#4, 0b1011#4]) ∧
    (0xF2800F30#32 &&& groupMask .a32 = groupMatch .a32 ∧
      (0xF2800F30#32).extractLsb' 8 4 ∉
        [0b0001#4, 0b0011#4, 0b0101#4, 0b0111#4, 0b1001#4, 0b1011#4]) := by decide

theorem witness_A32DoubleFormsClearOneRegister :
    State.reset.iset = .a32 ∧ State.reset.simdCheck = .enabled := by decide

theorem witness_A32QuadFormsClearTwoRegisters :
    State.reset.iset = .a32 ∧ State.reset.simdCheck = .enabled ∧ isEvenReg 30 = true ∧
    isEvenReg 0 = true := by decide

theorem witness_T32DoubleFormsClearOneRegister :
    (underConditions []).iset = .t32 ∧ (underConditions []).conditionPassed = true ∧
    (underConditions []).simdCheck = .enabled := by decide

theorem witness_T32QuadFormsClearTwoRegisters :
    (underConditions [1]).iset = .t32 ∧ (underConditions [1]).conditionPassed = true ∧
    (underConditions [1]).simdCheck = .enabled ∧ isEvenReg 30 = true := by decide

theorem witness_OperationClearsTheImmediateBits :
    wellFormed (.vbicT1Q 30 0b0111 0xFF) = true ∧ (Instr.vbicT1Q 30 0b0111 0xFF).isUndefined = false ∧
    ((underConditions []).conditionPassed = true ∧ (underConditions []).simdCheck = .enabled) ∧
    (underConditions [0]).conditionPassed = false := by decide

theorem witness_ConditionIsAlwaysTrueInA32AndFreeInT32 :
    State.reset.iset = .a32 ∧ (underConditions []).iset = .t32 := by decide

theorem witness_FailedConditionIsNoOp :
    wellFormed (.vbicT2D 31 0b1011 0xFF) = true ∧ (Instr.vbicT2D 31 0b1011 0xFF).isUndefined = false ∧
    (underConditions [0]).iset = .t32 ∧ (underConditions [0]).conditionPassed = false := by decide

theorem witness_UndefinedSubspacesRaiseOddQRegister :
    State.reset.conditionPassed = true ∧ (underConditions [1]).conditionPassed = true := by decide

theorem witness_OddQuadFormIsUndefined :
    decode .a32 0xF387117F#32 = .instr (.undefinedA1Q 1 0b0001 0xFF) ∧
    (State.reset.conditionPassed = true ∧ (Instr.vbicA1Q 31 0b0001 0xFF).isQ = true ∧
      isEvenReg (Instr.vbicA1Q 31 0b0001 0xFF).reg = false) ∧
    State.reset.fault ≠ some (.undefined .oddQRegister) ∧
    ((Instr.vbicA1D 31 0b0001 0xFF).isUndefined = false ∧ (Instr.vbicA1D 31 0b0001 0xFF).isQ = false ∧
      ∃ t, exec (.vbicA1D 31 0b0001 0xFF) State.reset = .next t) ∧
    ((Instr.vbicT2Q 30 0b1001 0xFF).isUndefined = false ∧
      isEvenReg (Instr.vbicT2Q 30 0b1001 0xFF).reg = true ∧
      (underConditions [0]).fault ≠ some (.undefined .oddQRegister) ∧
      ∃ t, exec (.vbicT2Q 30 0b1001 0xFF) (underConditions [0]) = .next t) :=
  ⟨by decide, by decide, by decide, ⟨rfl, rfl, _, rfl⟩, rfl, by decide, by decide, _, rfl⟩

/-- A T32 state whose next condition fails, with a value of `P_UNDEF_COND_FAIL`. -/
def failing (u : UndefCondFail) : State :=
  { underConditions [0] with params := { defaultParams with undefCondFail := u } }

theorem witness_UndefinedEncodingWithFailedCondition :
    (Instr.undefinedT1Q 31 0b0111 0xFF).isUndefined = true ∧
    ((failing .nop).conditionPassed = false ∧ (failing .nop).params.undefCondFail = .nop) ∧
    ((failing .undefined).conditionPassed = false ∧
      (failing .undefined).params.undefCondFail = .undefined) ∧
    ((failing .either).conditionPassed = false ∧ (failing .either).params.undefCondFail = .either) ∧
    ((failing .nop).fault = none ∧ ∃ t, exec (.vbicT1Q 30 0b0111 0xFF) (failing .nop) = .next t) :=
  ⟨by decide, by decide, by decide, by decide, by decide, _, rfl⟩

theorem witness_DisabledSimdRaisesUndefined :
    wellFormed (.vbicA1Q 0 0b0001 0) = true ∧ (Instr.vbicA1Q 0 0b0001 0).isUndefined = false ∧
    (answering .undefined State.reset).conditionPassed = true ∧
    (answering .undefined State.reset).simdCheck = .undefined := by decide

theorem witness_TrappedSimdRaisesHypTrap :
    wellFormed (.vbicT2D 31 0b1011 0xFF) = true ∧ (Instr.vbicT2D 31 0b1011 0xFF).isUndefined = false ∧
    (answering .hypTrap (underConditions [1])).conditionPassed = true ∧
    (answering .hypTrap (underConditions [1])).simdCheck = .hypTrap := by decide

theorem witness_ChecksAreOrdered :
    wellFormed (.undefinedA1Q 31 0b0001 0) = true ∧ wellFormed (.vbicA1Q 30 0b0001 0) = true ∧
    (answering .hypTrap State.reset).conditionPassed = true ∧
    (answering .hypTrap State.reset).fault = none ∧
    (answering .hypTrap State.reset).simdCheck = .hypTrap := by decide

theorem witness_FaultsArePreciseAndTerminal :
    State.reset.fault = none ∧ (Instr.vbicA1Q 30 0b0001 0xFF).isQ = true ∧
    (∃ t, exec (.vbicA1Q 30 0b0001 0xFF) State.reset = .next t) ∧
    ∃ t, exec (.vbicA1Q 30 0b0001 0xFF) (answering .hypTrap State.reset) = .next t :=
  ⟨rfl, rfl, ⟨_, rfl⟩, _, rfl⟩

theorem witness_WriteSetIsComplete :
    (∃ t, exec (.vbicA1Q 30 0b0001 0xFF) State.reset = .next t) ∧
    ¬inOperand (.vbicA1Q 30 0b0001 0xFF) 29 ∧ ¬inOperand (.vbicA1Q 30 0b0001 0xFF) 0 ∧
    State.reset.iset = .a32 ∧ wellFormed (.vbicA1Q 30 0b0001 0xFF) = true ∧
    ((∃ t, exec (.undefinedT2Q 31 0b1001 0xFF) (underConditions [1]) = .next t) ∧
      (Instr.undefinedT2Q 31 0b1001 0xFF).isUndefined = true) :=
  ⟨⟨_, rfl⟩, by decide, by decide, rfl, rfl, ⟨_, rfl⟩, rfl⟩

theorem witness_ProgramCounterMovesByFour :
    (∃ t, exec (.vbicA1D 0 0b0001 0xFF) { State.reset with pc := 0xFFFFFFFC#32 } = .next t ∧
      t.fault = none) ∧
    (∃ t, exec (.vbicA1D 0 0b0001 0xFF) (answering .hypTrap State.reset) = .next t ∧ t.fault ≠ none) ∧
    ({ State.reset with pc := 0xFFFFFFFC#32 } : State).simdCheck = State.reset.simdCheck :=
  ⟨⟨_, rfl, rfl⟩, ⟨_, rfl, by decide⟩, by decide⟩

theorem witness_FaultRecordIsNeverCleared :
    (State.reset.raise .hypTrap).fault ≠ none ∧
    (∃ t, exec (.vbicA1D 0 0b0001 0xFF) (State.reset.raise .hypTrap) = .next t) ∧
    (State.reset.raise (.undefined .simdDisabled)).fault = some (.undefined .simdDisabled) :=
  ⟨by decide, ⟨_, rfl⟩, rfl⟩

theorem witness_RegisterReadsLastWrite : (31 : RegNum) ≠ 30 := by decide

theorem witness_QuadRegisterIsItsTwoDoubles :
    (wellFormed (.vbicA1Q 30 0b0001 0xFF) = true ∧ (Instr.vbicA1Q 30 0b0001 0xFF).isUndefined = false ∧
      (Instr.vbicA1Q 30 0b0001 0xFF).reg = lowerHalf 15) ∧
    (wellFormed (.vbicT2D 31 0b1011 0xFF) = true ∧ (Instr.vbicT2D 31 0b1011 0xFF).isUndefined = false ∧
      (Instr.vbicT2D 31 0b1011 0xFF).reg = upperHalf 15) ∧
    (wellFormed (.vbicT1D 0 0b0001 0xFF) = true ∧ (Instr.vbicT1D 0 0b0001 0xFF).isUndefined = false ∧
      (Instr.vbicT1D 0 0b0001 0xFF).reg = lowerHalf 0) ∧
    (State.reset.conditionPassed = true ∧ State.reset.simdCheck = .enabled) ∧
    ((underConditions [1]).conditionPassed = true ∧ (underConditions [1]).simdCheck = .enabled) := by
  decide

theorem witness_BitClearLaws : 63 < 64 ∧ (1#64).getLsbD 63 = false := by decide

theorem witness_TwoVbicsOnOneRegisterCommuteAndMerge :
    (Instr.vbicT1D 31 0b0001 0xFF).isQ = false ∧ (Instr.vbicT2D 31 0b1011 0x0F).isQ = false ∧
    (Instr.vbicT1D 31 0b0001 0xFF).reg = (Instr.vbicT2D 31 0b1011 0x0F).reg ∧
    (underConditions [1, 1]).fault = none ∧ (underConditions [1, 1]).conditionPassed = true ∧
    (∃ s1 s2, exec (.vbicT1D 31 0b0001 0xFF) (underConditions [1, 1]) = .next s1 ∧
      s1.conditionPassed = true ∧ exec (.vbicT2D 31 0b1011 0x0F) s1 = .next s2 ∧ s2.fault = none) ∧
    (∃ t1 t2, exec (.vbicT2D 31 0b1011 0x0F) (underConditions [1, 1]) = .next t1 ∧
      t1.conditionPassed = true ∧ exec (.vbicT1D 31 0b0001 0xFF) t1 = .next t2 ∧ t2.fault = none) :=
  ⟨rfl, rfl, rfl, rfl, by decide, ⟨_, _, rfl, rfl, rfl, rfl⟩, ⟨_, _, rfl, rfl, rfl, rfl⟩⟩

theorem witness_QuadFormEqualsTwoDoubleForms :
    isEvenReg 30 = true ∧
    (State.reset.fault = none ∧ State.reset.conditionPassed = true ∧
      (∃ q, exec (.vbicA1Q 30 0b0001 0xFF) State.reset = .next q ∧ q.fault = none) ∧
      ∃ t u, exec (.vbicA1D 30 0b0001 0xFF) State.reset = .next t ∧ t.conditionPassed = true ∧
        exec (.vbicA1D 31 0b0001 0xFF) t = .next u ∧ u.fault = none) ∧
    ((∃ q, exec (.vbicA2Q 30 0b1011 0xFF) State.reset = .next q ∧ q.fault = none) ∧
      ∃ t u, exec (.vbicA2D 30 0b1011 0xFF) State.reset = .next t ∧ t.conditionPassed = true ∧
        exec (.vbicA2D 31 0b1011 0xFF) t = .next u ∧ u.fault = none) ∧
    ((underConditions [1, 1]).fault = none ∧ (underConditions [1, 1]).conditionPassed = true ∧
      (∃ q, exec (.vbicT1Q 30 0b0001 0xFF) (underConditions [1, 1]) = .next q ∧ q.fault = none) ∧
      ∃ t u, exec (.vbicT1D 30 0b0001 0xFF) (underConditions [1, 1]) = .next t ∧
        t.conditionPassed = true ∧ exec (.vbicT1D 31 0b0001 0xFF) t = .next u ∧ u.fault = none) ∧
    ((∃ q, exec (.vbicT2Q 30 0b1011 0xFF) (underConditions [1, 1]) = .next q ∧ q.fault = none) ∧
      ∃ t u, exec (.vbicT2D 30 0b1011 0xFF) (underConditions [1, 1]) = .next t ∧
        t.conditionPassed = true ∧ exec (.vbicT2D 31 0b1011 0xFF) t = .next u ∧ u.fault = none) :=
  ⟨rfl, ⟨rfl, rfl, ⟨_, rfl, rfl⟩, _, _, rfl, rfl, rfl, rfl⟩,
    ⟨⟨_, rfl, rfl⟩, _, _, rfl, rfl, rfl, rfl⟩,
    ⟨rfl, by decide, ⟨_, rfl, rfl⟩, _, _, rfl, rfl, rfl, rfl⟩,
    ⟨⟨_, rfl, rfl⟩, _, _, rfl, rfl, rfl, rfl⟩⟩

theorem witness_LanesAreClearedAlike :
    (wellFormed (.vbicA1Q 30 0b0001 0xFF) = true ∧ (Instr.vbicA1Q 30 0b0001 0xFF).isUndefined = false ∧
      (Instr.vbicA1Q 30 0b0001 0xFF).inClass2 = false ∧ inOperand (.vbicA1Q 30 0b0001 0xFF) 31) ∧
    (wellFormed (.vbicA2D 31 0b1011 0xFF) = true ∧ (Instr.vbicA2D 31 0b1011 0xFF).isUndefined = false ∧
      (Instr.vbicA2D 31 0b1011 0xFF).inClass2 = true ∧ inOperand (.vbicA2D 31 0b1011 0xFF) 31) ∧
    State.reset.conditionPassed = true ∧ State.reset.simdCheck = .enabled := by decide

theorem witness_ExpandedImmediateIsReplicated :
    isClass1 0b0001 = true ∧ isClass1 0b0111 = true ∧ isClass2 0b1001 = true ∧ isClass2 0b1011 = true := by
  decide

theorem witness_DefaultExpansionShiftsTheByte : 3 < 4 ∧ 1 < 2 ∧ 31 < 32 ∧ 3 < 4 ∧ 15 < 16 := by decide

/-- The default parameters meet `EXPAND_DEFAULT`. -/
theorem reset_expandDefault : ExpandDefault State.reset.params := fun _ _ _ => rfl

theorem witness_DefaultImmediateCorners :
    wellFormed (.vbicA1Q 30 0b0111 0) = true ∧ ExpandDefault State.reset.params ∧
    (Instr.vbicA1Q 30 0b0111 0).imm8 = 0#8 ∧
    (∃ t, exec (.vbicA1Q 30 0b0111 0) State.reset = .next t) ∧
    (isClass1 0b0111 || isClass2 0b0111) = true ∧ (isClass1 0b1011 || isClass2 0b1011) = true :=
  ⟨by decide, reset_expandDefault, rfl, ⟨_, rfl⟩, by decide, by decide⟩

/-- A state in which an instruction is loaded at the highest aligned address. -/
def loadedAtTop (w : Nat) : State :=
  ({ State.reset with pc := 0xFFFFFFFC#32 } : State).withFetchWord 32 w

theorem witness_StepRunsTheDecodedInstruction :
    (loadedAtTop 0xF387013F).fault = none ∧ (loadedAtTop 0xF387013F).aligned = true ∧
    (loadedAtTop 0xF387013F).fetch = some 0xF387013F#32 ∧
    decode (loadedAtTop 0xF387013F).iset 0xF387013F#32 = .instr (.vbicA1D 0 0b0001 0xFF) := by decide

theorem witness_StepRefusesWhereNoInstructionIs :
    (State.reset.fault = none ∧ State.reset.aligned = true ∧
      State.reset.textByte (State.reset.pc + BitVec.ofNat 32 0) = none) ∧
    (let s : State := { State.reset with text := [(0, 0#8), (1, 0#8), (2, 0#8)] }
     s.fault = none ∧ s.aligned = true ∧ s.textByte (s.pc + BitVec.ofNat 32 3) = none) ∧
    (let s : State := { State.reset with pc := 3#32 }
     s.fault = none ∧ s.iset = .a32 ∧ s.pc.toNat % 4 ≠ 0) ∧
    (let s : State := { State.reset with pc := 0xFFFFFFFF#32, iset := .t32 }
     s.fault = none ∧ s.iset = .t32 ∧ s.pc.toNat % 2 ≠ 0) := by decide

/-- The default parameters have the default `P_FETCH`. -/
theorem reset_fetchDefault : FetchDefault State.reset.params := fun _ _ _ _ _ => rfl

theorem witness_FetchIsLittleEndian :
    FetchDefault (loadedAtTop 0xF387013F).params ∧ FetchDefault (loadedAtTop 0xEF83857C).params ∧
    (let s := loadedAtTop 0xF387013F
     s.iset = .a32 ∧ s.textByte s.pc = some 0x3F#8 ∧ s.textByte (s.pc + 1#32) = some 0x01#8 ∧
       s.textByte (s.pc + 2#32) = some 0x87#8 ∧ s.textByte (s.pc + 3#32) = some 0xF3#8) ∧
    (let s := loadedAtTop 0xEF83857C
     s.iset = .t32 ∧ s.textByte s.pc = some 0x83#8 ∧ s.textByte (s.pc + 1#32) = some 0xEF#8 ∧
       s.textByte (s.pc + 2#32) = some 0x7C#8 ∧ s.textByte (s.pc + 3#32) = some 0x85#8) :=
  ⟨reset_fetchDefault, reset_fetchDefault, by decide, by decide⟩

theorem witness_FetchIsAnyFunctionOfTextPcAndIset :
    (loadedAtTop 0xF387013F).fetch ≠ none ∧
    (let s := loadedAtTop 0xF387013F
     let t : State := { s with dit := true, n := true }
     s.params = t.params ∧ s.text = t.text ∧ s.pc = t.pc ∧ s.iset = t.iset) := by decide

theorem witness_LoadedInstructionIsRunNext :
    (wellFormed (.vbicA1Q 30 0b0111 0xFF) = true ∧ (Instr.vbicA1Q 30 0b0111 0xFF).iset = .a32 ∧
      State.reset.fault = none ∧ State.reset.pc.toNat % 4 = 0) ∧
    (let s : State := { State.reset with pc := 0xFFFFFFFE#32 }
     wellFormed (.vbicT2Q 30 0b1011 0xFF) = true ∧ (Instr.vbicT2Q 30 0b1011 0xFF).iset = .t32 ∧
       s.fault = none ∧ s.pc.toNat % 2 = 0 ∧
       (2#32 : Addr) ∉ [s.pc, s.pc + 1#32, s.pc + 2#32, s.pc + 3#32]) := by decide

theorem witness_StepKeepsTextCanonicalAndPcAligned :
    (loadedAtTop 0xF387013F).inv ∧ ∃ t, step (loadedAtTop 0xF387013F) = .next t :=
  ⟨by decide, _, rfl⟩

/-- A register bit that is 1 before a step and after it. -/
theorem witness_StepNeverSetsARegisterBit :
    ∃ t, step ((given 31 0xFFFFFFFFFFFFFFFF 0 0).withFetchWord 32 0xF3C7F13F) = .next t ∧
      (t.readD 31).getLsbD 63 = true ∧ (t.readD 31).getLsbD 0 = false :=
  ⟨_, rfl, by decide, by decide⟩

theorem witness_StepLeavesUnwrittenStateAlone :
    (∃ t, step (loadedAtTop 0xF387013F) = .next t ∧ t.fault = none) ∧
    ∃ t, step (answering .hypTrap (loadedAtTop 0xF387013F)) = .next t ∧ t.fault ≠ none :=
  ⟨⟨_, rfl, by decide⟩, _, rfl, by decide⟩

theorem witness_InstructionsNeitherReadNorWriteMemory :
    ∃ t, exec (.vbicT2Q 30 0b1011 0xFF) (underConditions [1]) = .next t := ⟨_, rfl⟩

theorem witness_FlagsAreReadOnlyByTheConditionCheck :
    (∃ t, exec (.vbicT2Q 30 0b1011 0xFF) (underConditions [0x8001]) = .next t) ∧
    ({ underConditions [0x8001] with n := true, z := true, c := true, v := true } : State).conditionPassed =
      (underConditions [0x8001]).conditionPassed := ⟨⟨_, rfl⟩, by decide⟩

theorem witness_DitChangesNoResult :
    ∃ t, exec (.vbicA1D 31 0b0111 0xFF) State.reset = .next t := ⟨_, rfl⟩

theorem witness_SimdCheckReadsOnlyItsNamedInputs :
    let t : State := { given 0 1 1 2 with n := true, dit := true }
    State.reset.params = t.params ∧ State.reset.cpacr = t.cpacr ∧ State.reset.nsacr = t.nsacr ∧
    State.reset.hcptr = t.hcptr ∧ State.reset.securityState = t.securityState ∧
    State.reset.peMode = t.peMode ∧ State.reset.pc = t.pc := by decide

theorem witness_AssembledInstructionIsNeverUndefined :
    (assemblesTo defaultParams (line .i32 0xFF) (.vbicA1D 0 0b0001 0xFF) = true ∧
      (line .i32 0xFF).reg = .d 0 ∧ (line .i32 0xFF).dtype = .i32) ∧
    (let l : AsmLine := { line .i16 0xFF00 with iset := .t32, reg := .q 15 }
     assemblesTo defaultParams l (.vbicT2Q 30 0b1011 0xFF) = true ∧ l.reg = .q 15 ∧ l.dtype = .i16) := by
  decide

theorem witness_DisassembledLineAssemblesBack :
    wellFormed (.vbicT1Q 30 0b0111 0xFF) = true ∧ (Instr.vbicT1Q 30 0b0111 0xFF).isUndefined = false := by
  decide

theorem witness_PseudoTypeI8AdmitsOnlyZero :
    ExpandDefault defaultParams ∧ (line .i8 0).dtype = .i8 ∧
    assemblesTo defaultParams (line .i8 0) (.vbicA2D 0 0b1011 0) = true :=
  ⟨reset_expandDefault, rfl, by decide⟩

theorem witness_PseudoTypeAcceptedExactlyWhenEncodable :
    ((line .f32 0x00120012).dtype = .f32 ∧ (line .f32 0x00120012).accepted = true ∧
      assemblesTo defaultParams (line .f32 0x00120012) (.vbicA2D 0 0b1001 0x12) = true ∧
      (Instr.vbicA2D 0 0b1001 0x12).inClass2 = true) ∧
    ((line .i64 0x0012001200120012).dtype = .i64 ∧ (line .i64 0x0012001200120012).accepted = true ∧
      assemblesTo defaultParams (line .i64 0x0012001200120012) (.vbicA2D 0 0b1001 0x12) = true) ∧
    ((line .i8 1).dtype = .i8 ∧ (line .i8 1).accepted = true ∧
      assemblesTo onesParams (line .i8 1) (.vbicA1D 0 0b0001 0) = true ∧
      (Instr.vbicA1D 0 0b0001 0).inClass2 = false) := by decide +kernel

end Sys2Proof.Machine.Tests
end

section
/-! The flags (O49): replacing them commutes with every operation but the condition check. -/

namespace Sys2Proof.Machine

/-- The state with other condition flags (R20). -/
abbrev State.withFlags (s : State) (n z c v : Bool) : State :=
  { s with n := n, z := z, c := c, v := v }

/-! ### The operations that do not look at the flags -/

section
variable (s : State) (n z c v : Bool)

theorem State.complete_withFlags : (s.withFlags n z c v).complete = s.complete.withFlags n z c v := by
  cases hi : s.iset <;> simp [State.complete, State.advancePc, State.advanceCond, hi]

theorem State.completeByChoice_withFlags :
    (s.withFlags n z c v).completeByChoice = s.completeByChoice.withFlags n z c v := by
  simp [State.completeByChoice, State.complete_withFlags]

theorem State.clearRegs_withFlags (m : DWord) (k : Nat) (d : RegNum) :
    (s.withFlags n z c v).clearRegs m k d = (s.clearRegs m k d).withFlags n z c v := by
  induction k generalizing d s with
  | zero => rfl
  | succ k ih => exact ih (s.writeD d (bitClear (s.readD d) m)) (d + 1#5)

theorem State.clearOperand_withFlags (q : Bool) (d : RegNum) (cmode : BitVec 4) (imm8 : BitVec 8) :
    (s.withFlags n z c v).clearOperand q d cmode imm8 =
      (s.clearOperand q d cmode imm8).withFlags n z c v :=
  s.clearRegs_withFlags n z c v (s.imm64 cmode imm8) (regsOf q) d

theorem oddQConditionFailed_withFlags :
    oddQConditionFailed (s.withFlags n z c v) = (oddQConditionFailed s).withFlags n z c v := by
  unfold oddQConditionFailed
  cases s.params.undefCondFail with
  | nop => exact s.complete_withFlags n z c v
  | undefined => rfl
  | either =>
    cases Config.undefOnFailedCondition s.freeChoices with
    | true => rfl
    | false => exact s.completeByChoice_withFlags n z c v

theorem vbicEnabledPart_withFlags (q : Bool) (d : RegNum) (cmode : BitVec 4) (imm8 : BitVec 8) :
    vbicEnabledPart q d cmode imm8 (s.withFlags n z c v) =
      (vbicEnabledPart q d cmode imm8 s).withFlags n z c v := by
  have hsimd : (s.withFlags n z c v).simdCheck = s.simdCheck := rfl
  unfold vbicEnabledPart
  rw [hsimd]
  cases s.simdCheck with
  | undefined => rfl
  | hypTrap => rfl
  | enabled =>
    calc ((s.withFlags n z c v).clearOperand q d cmode imm8).complete
        = ((s.clearOperand q d cmode imm8).withFlags n z c v).complete :=
          congrArg State.complete (s.clearOperand_withFlags n z c v q d cmode imm8)
      _ = (s.clearOperand q d cmode imm8).complete.withFlags n z c v :=
          State.complete_withFlags _ n z c v

end

/-! ### The meanings, where the condition check answers alike -/

section
variable {s t : State} {n z c v : Bool}

theorem oddQRegister_withFlags (hc : (s.withFlags n z c v).conditionPassed = s.conditionPassed)
    (h : oddQRegister s = .next t) :
    oddQRegister (s.withFlags n z c v) = .next (t.withFlags n z c v) := by
  unfold oddQRegister at h ⊢
  rw [hc]
  cases hp : s.conditionPassed with
  | true => cases h; simp [hp, State.raise]
  | false => cases h; simp [hp, oddQConditionFailed_withFlags]

theorem vbicImmediate_withFlags {q : Bool} {d : RegNum} {cmode : BitVec 4} {imm8 : BitVec 8}
    (hc : (s.withFlags n z c v).conditionPassed = s.conditionPassed)
    (h : vbicImmediate q d cmode imm8 s = .next t) :
    vbicImmediate q d cmode imm8 (s.withFlags n z c v) = .next (t.withFlags n z c v) := by
  cases hq : q && !isEvenReg d with
  | true =>
    rw [vbicImmediate_odd hq] at h ⊢
    exact oddQRegister_withFlags hc h
  | false =>
    simp only [vbicImmediate, hq] at h ⊢
    rw [hc]
    cases hp : s.conditionPassed with
    | true => cases h; simp [hp, vbicEnabledPart_withFlags]
    | false => cases h; simp [hp, State.complete_withFlags]

theorem exec_withFlags {i : Instr}
    (hc : (s.withFlags n z c v).conditionPassed = s.conditionPassed) (h : exec i s = .next t) :
    exec i (s.withFlags n z c v) = .next (t.withFlags n z c v) := by
  cases hu : i.isUndefined with
  | true =>
    rw [exec_undefined hu] at h ⊢
    exact oddQRegister_withFlags hc h
  | false =>
    rw [exec_vbic hu] at h ⊢
    exact vbicImmediate_withFlags hc h

theorem exec_keeps_flags {i : Instr} (h : exec i s = .next t) :
    t.n = s.n ∧ t.z = s.z ∧ t.c = s.c ∧ t.v = s.v := by
  rcases exec_cases h with ⟨r, rfl, _⟩ | rfl | ⟨rfl, _⟩ | ⟨_, _, _, _, rfl⟩
  case inl => exact ⟨rfl, rfl, rfl, rfl⟩
  all_goals simp

end

/-- Settles O49: `exec_cases` shows that no outcome writes a flag, and `exec_withFlags` that other flags
show in the result only where the condition check tells them apart (R20). -/
theorem flagsAreReadOnlyByTheConditionCheck : Obligations.FlagsAreReadOnlyByTheConditionCheck :=
  fun _ _ _ _ _ _ _ h => ⟨exec_keeps_flags h, fun hc => exec_withFlags hc h⟩

end Sys2Proof.Machine
end

section
/-! The register diagrams (O5): the fields and constant bits of an encoded word, read off R39 and R40. -/

namespace Sys2Proof

section
variable (iset : ISet) (q : Bool) (d : RegNum) (cmode : BitVec 4) (imm8 : BitVec 8)

/-- The fields of more than one bit that stand alike in both instruction sets. -/
theorem encodeFields_fields :
    (encodeFields iset q d cmode imm8).extractLsb' 19 3 = 0b000#3 ∧
    (encodeFields iset q d cmode imm8).extractLsb' 16 3 = imm8.extractLsb' 4 3 ∧
    (encodeFields iset q d cmode imm8).extractLsb' 12 4 = d.extractLsb' 0 4 ∧
    (encodeFields iset q d cmode imm8).extractLsb' 8 4 = cmode ∧
    (encodeFields iset q d cmode imm8).extractLsb' 0 4 = imm8.extractLsb' 0 4 := by
  cases iset <;> refine ⟨?_, ?_, ?_, ?_, ?_⟩ <;>
    simp (disch := decide) only [encodeFields, BitVec.setWidth_eq, BitVec.extractLsb'_eq_self,
      BitVec.extractLsb'_append_eq_of_add_le, BitVec.extractLsb'_append_eq_of_le, Nat.reduceSub]

/-- The single bits that stand alike in both instruction sets: `D`, `Q` and the constants of R46. -/
theorem encodeFields_bits :
    (encodeFields iset q d cmode imm8).getLsbD 22 = d.getLsbD 4 ∧
    (encodeFields iset q d cmode imm8).getLsbD 7 = false ∧
    (encodeFields iset q d cmode imm8).getLsbD 6 = q ∧
    (encodeFields iset q d cmode imm8).getLsbD 5 = true ∧
    (encodeFields iset q d cmode imm8).getLsbD 4 = true := by
  cases iset with
  | a32 => simp only [Laws.encodeFields_bit_a32, BitVec.getLsbD_append]; simp
  | t32 => simp only [Laws.encodeFields_bit_t32, BitVec.getLsbD_append]; simp

/-- Bits 31 to 23 in A32 (R39): constants around `i` in bit 24. -/
theorem encodeFields_a32_top :
    (encodeFields .a32 q d cmode imm8).extractLsb' 25 7 = 0b1111001#7 ∧
    (encodeFields .a32 q d cmode imm8).getLsbD 24 = imm8.getLsbD 7 ∧
    (encodeFields .a32 q d cmode imm8).getLsbD 23 = true := by
  refine ⟨?_, ?_, ?_⟩
  · simp (disch := decide) only [encodeFields, BitVec.setWidth_eq, BitVec.extractLsb'_eq_self,
      BitVec.extractLsb'_append_eq_of_le, Nat.reduceSub]
  · simp only [Laws.encodeFields_bit_a32, BitVec.getLsbD_append]; simp
  · simp only [Laws.encodeFields_bit_a32, BitVec.getLsbD_append]; simp

/-- Bits 31 to 23 in T32 (R40): constants around `i` in bit 28. -/
theorem encodeFields_t32_top :
    (encodeFields .t32 q d cmode imm8).extractLsb' 29 3 = 0b111#3 ∧
    (encodeFields .t32 q d cmode imm8).getLsbD 28 = imm8.getLsbD 7 ∧
    (encodeFields .t32 q d cmode imm8).extractLsb' 23 5 = 0b11111#5 := by
  refine ⟨?_, ?_, ?_⟩
  · simp (disch := decide) only [encodeFields, BitVec.setWidth_eq, BitVec.extractLsb'_eq_self,
      BitVec.extractLsb'_append_eq_of_le, Nat.reduceSub]
  · simp only [Laws.encodeFields_bit_t32, BitVec.getLsbD_append]; simp
  · simp (disch := decide) only [encodeFields, BitVec.setWidth_eq, BitVec.extractLsb'_eq_self,
      BitVec.extractLsb'_append_eq_of_add_le, BitVec.extractLsb'_append_eq_of_le, Nat.reduceSub]

end

/-! ### The cells of `cmode` (R45) -/

theorem wellFormed_isClass1 {i : Instr} (hw : wellFormed i = true) (h : i.inClass2 = false) :
    isClass1 i.cmode = true := by
  cases i <;> simp_all [wellFormed, Instr.inClass2, Instr.cmode]

theorem wellFormed_isClass2 {i : Instr} (hw : wellFormed i = true) (h : i.inClass2 = true) :
    isClass2 i.cmode = true := by
  cases i <;> simp_all [wellFormed, Instr.inClass2, Instr.cmode]

/-- A class 1 `cmode` is `0xx1`. -/
theorem isClass1_iff (cmode : BitVec 4) :
    isClass1 cmode = true ↔ cmode.getLsbD 3 = false ∧ cmode.getLsbD 0 = true := by
  simp [isClass1, and_comm]

/-- A class 2 `cmode` is `10x1`. -/
theorem isClass2_iff (cmode : BitVec 4) :
    isClass2 cmode = true ↔ cmode.extractLsb' 2 2 = 0b10#2 ∧ cmode.getLsbD 0 = true := by
  revert cmode; decide

/-- The cells of `cmode` in a word are the bits of the field. -/
theorem cells_eq_cmodeField (w : Word) :
    w.getLsbD 11 = (cmodeField w).getLsbD 3 ∧ w.getLsbD 8 = (cmodeField w).getLsbD 0 ∧
      w.extractLsb' 10 2 = (cmodeField w).extractLsb' 2 2 := by
  refine ⟨by simp [cmodeField], by simp [cmodeField], BitVec.eq_of_getLsbD_eq fun k hk => ?_⟩
  have hk4 : 2 + k < 4 := by omega
  simp [cmodeField, hk, hk4, ← Nat.add_assoc]

theorem cmodeField_encode (i : Instr) : cmodeField (encode i) = i.cmode := by
  obtain ⟨_, _, _, hcmode, _⟩ := encodeFields_fields i.iset i.isQ i.reg i.cmode i.imm8
  exact hcmode

theorem encode_class1_cells {i : Instr} (hw : wellFormed i = true) (h : i.inClass2 = false) :
    (encode i).getLsbD 11 = false ∧ (encode i).getLsbD 8 = true := by
  obtain ⟨h11, h8, _⟩ := cells_eq_cmodeField (encode i)
  rw [h11, h8, cmodeField_encode]
  exact (isClass1_iff _).1 (wellFormed_isClass1 hw h)

theorem encode_class2_cells {i : Instr} (hw : wellFormed i = true) (h : i.inClass2 = true) :
    (encode i).extractLsb' 10 2 = 0b10#2 ∧ (encode i).getLsbD 8 = true := by
  obtain ⟨_, h8, h10⟩ := cells_eq_cmodeField (encode i)
  rw [h8, h10, cmodeField_encode]
  exact (isClass2_iff _).1 (wellFormed_isClass2 hw h)

theorem encode_a32_top {i : Instr} (h : i.iset = .a32) :
    (encode i).extractLsb' 25 7 = 0b1111001#7 ∧ (encode i).getLsbD 24 = i.imm8.getLsbD 7 ∧
      (encode i).getLsbD 23 = true := by
  unfold encode
  rw [h]
  exact encodeFields_a32_top i.isQ i.reg i.cmode i.imm8

theorem encode_t32_top {i : Instr} (h : i.iset = .t32) :
    (encode i).extractLsb' 29 3 = 0b111#3 ∧ (encode i).getLsbD 28 = i.imm8.getLsbD 7 ∧
      (encode i).extractLsb' 23 5 = 0b11111#5 := by
  unfold encode
  rw [h]
  exact encodeFields_t32_top i.isQ i.reg i.cmode i.imm8

/-- Settles O5: the fields are those of `encodeFields`, and a well-formed instruction has the `cmode`
cells of its class. -/
theorem encodingPlacesFieldsAsTheDiagrams : Obligations.EncodingPlacesFieldsAsTheDiagrams := by
  intro i hw
  obtain ⟨hzeros, himm3, hvd, hcmode, himm4⟩ :=
    encodeFields_fields i.iset i.isQ i.reg i.cmode i.imm8
  obtain ⟨hD, h7, hQ, h5, h4⟩ := encodeFields_bits i.iset i.isQ i.reg i.cmode i.imm8
  exact ⟨encode_a32_top, encode_t32_top, hD, hzeros, himm3, hvd, hcmode, encode_class1_cells hw,
    encode_class2_cells hw, h7, hQ, h5, h4, himm4⟩

end Sys2Proof
end

section
/-! The decoder (O7, O8): the fields of the instruction it answers, read off the word (R43, R44, R48). -/

namespace Sys2Proof

/-! ### The row an encoding belongs to, field by field -/

section
variable (iset : ISet) (q : Bool) (d : RegNum) (cmode : BitVec 4) (imm8 : BitVec 8)

/-- The instruction of a set of fields has those fields; it is of an UNDEFINED row exactly where a
128-bit form has an odd register number (R47). -/
theorem instrOfFields_fields :
    (instrOfFields iset q d cmode imm8).isQ = q ∧
    (instrOfFields iset q d cmode imm8).reg = d ∧
    (instrOfFields iset q d cmode imm8).cmode = cmode ∧
    (instrOfFields iset q d cmode imm8).imm8 = imm8 ∧
    (instrOfFields iset q d cmode imm8).isUndefined = (q && !isEvenReg d) := by
  unfold instrOfFields
  split <;> simp_all [Instr.isQ, Instr.reg, Instr.cmode, Instr.imm8, Instr.isUndefined]

end

theorem decode_eq_instr_iff (iset : ISet) (w : Word) (i : Instr) :
    decode iset w = .instr i ↔ inGroup iset w = true ∧ seeRelated (cmodeField w) = false ∧
      i = instrOfFields iset (w.getLsbD 6) (regField w) (cmodeField w) (imm8Field iset w) := by
  unfold decode
  cases hg : inGroup iset w with
  | false => simp
  | true =>
    cases hr : seeRelated (cmodeField w) with
    | true => simp
    | false => simp [eq_comm]

/-- Each field of a decoded instruction is the word's field of that name. -/
theorem decode_fields {iset : ISet} {w : Word} {i : Instr} (h : decode iset w = .instr i) :
    i.isQ = w.getLsbD 6 ∧ i.reg = regField w ∧ i.cmode = cmodeField w ∧ i.imm8 = imm8Field iset w := by
  obtain ⟨_, _, rfl⟩ := (decode_eq_instr_iff iset w i).1 h
  obtain ⟨hq, hd, hc, hb, _⟩ := instrOfFields_fields iset (w.getLsbD 6) (regField w) (cmodeField w)
    (imm8Field iset w)
  exact ⟨hq, hd, hc, hb⟩

/-- A decoded instruction is of an UNDEFINED row exactly where its form does not admit its register
number (R47). -/
theorem decode_isUndefined {iset : ISet} {w : Word} {i : Instr} (h : decode iset w = .instr i) :
    i.isUndefined = (i.isQ && !isEvenReg i.reg) := by
  obtain ⟨_, _, rfl⟩ := (decode_eq_instr_iff iset w i).1 h
  obtain ⟨hq, hd, _, _, hu⟩ := instrOfFields_fields iset (w.getLsbD 6) (regField w) (cmodeField w)
    (imm8Field iset w)
  rw [hq, hd, hu]

/-! ### The fields as numbers -/

/-- A field of one bit is 0 or 1 as the bit is. -/
theorem toNat_extractLsb'_one (w : Word) (k : Nat) : (w.extractLsb' k 1).toNat = (w.getLsbD k).toNat := by
  rw [BitVec.extractLsb'_toNat, BitVec.getLsbD, Nat.toNat_testBit, Nat.shiftRight_eq_div_pow, pow_one]

/-- A concatenation as a sum, where the library states it with `|||`. -/
theorem toNat_append_eq_add {m n : Nat} (x : BitVec m) (y : BitVec n) :
    (x ++ y).toNat = 2 ^ n * x.toNat + y.toNat := by
  rw [BitVec.toNat_append, ← Nat.shiftLeft_add_eq_or_of_lt y.isLt, Nat.shiftLeft_eq, Nat.mul_comm]

theorem regField_toNat (w : Word) :
    (regField w).toNat = 16 * (w.getLsbD 22).toNat + (w.extractLsb' 12 4).toNat := by
  simp only [regField, BitVec.setWidth_eq, toNat_append_eq_add, toNat_extractLsb'_one]
  rfl

/-- In A32 `i` is bit 24 (R39). -/
theorem imm8Field_a32_toNat (w : Word) :
    (imm8Field .a32 w).toNat =
      128 * (w.getLsbD 24).toNat + 16 * (w.extractLsb' 16 3).toNat + (w.extractLsb' 0 4).toNat := by
  simp only [imm8Field, BitVec.setWidth_eq, toNat_append_eq_add, toNat_extractLsb'_one]
  omega

/-- In T32 `i` is bit 28 (R40). -/
theorem imm8Field_t32_toNat (w : Word) :
    (imm8Field .t32 w).toNat =
      128 * (w.getLsbD 28).toNat + 16 * (w.extractLsb' 16 3).toNat + (w.extractLsb' 0 4).toNat := by
  simp only [imm8Field, BitVec.setWidth_eq, toNat_append_eq_add, toNat_extractLsb'_one]
  omega

/-! ### The second register of a 128-bit form (R44, R47) -/

theorem toNat_succ_of_isEvenReg {d : RegNum} (h : isEvenReg d = true) :
    (d + 1#5).toNat = d.toNat + 1 := by
  revert d; decide

/-- The second register of a 128-bit form is the next one, and is a register. -/
theorem decode_second_reg {iset : ISet} {w : Word} {i : Instr} (h : decode iset w = .instr i)
    (h6 : w.getLsbD 6 = true) (hu : i.isUndefined = false) :
    (i.reg + 1#5).toNat = i.reg.toNat + 1 ∧ (i.reg + 1#5).toNat ≤ 31 := by
  obtain ⟨hq, _⟩ := decode_fields h
  have heven : isEvenReg i.reg = true := by simpa [hu, hq, h6] using decode_isUndefined h
  exact ⟨toNat_succ_of_isEvenReg heven, Nat.le_of_lt_succ (i.reg + 1#5).isLt⟩

end Sys2Proof
end

section
/-! What an instruction leaves in a register (O7, O8): cleared bits in the operand, if the operation
is carried out, and otherwise the register as it was (R44, R59). -/

namespace Sys2Proof.Machine

theorem State.readD_clearOperand (s : State) (q : Bool) (d : RegNum) (cmode : BitVec 4) (imm8 : BitVec 8)
    (n : RegNum) :
    (s.clearOperand q d cmode imm8).readD n =
      if n = d ∨ (q = true ∧ n = d + 1#5) then bitClear (s.readD n) (s.imm64 cmode imm8)
      else s.readD n := by
  cases q with
  | false =>
    rw [State.clearOperand_double]
    by_cases hd : n = d
    · simp [hd]
    · simp [hd, State.readD_writeD_ne]
  | true =>
    rw [State.clearOperand_quad]
    by_cases hd1 : n = d + 1#5
    · simp [hd1]
    · rw [State.readD_writeD_ne _ _ _ _ hd1]
      by_cases hd : n = d
      · simp [hd]
      · simp [hd, hd1, State.readD_writeD_ne]

/-- The operation of `i` is carried out: the register number is one its form admits, the condition
passes and Advanced SIMD is enabled (R59, R94). -/
abbrev operates (i : Instr) (s : State) : Prop :=
  i.isUndefined = false ∧ (i.isQ && !isEvenReg i.reg) = false ∧ s.conditionPassed = true ∧
    s.simdCheck = .enabled

theorem readD_oddQRegister {s t : State} (h : oddQRegister s = .next t) (n : RegNum) :
    t.readD n = s.readD n := by
  rcases oddQRegister_cases h with rfl | ⟨_, rfl | rfl⟩ <;> simp

/-- A register after an instruction: what is written is written to the operand only, and every value
written is made from that register's own value and the immediate. -/
theorem readD_exec {i : Instr} {s t : State} (h : exec i s = .next t) (n : RegNum) :
    t.readD n = if operates i s ∧ inOperand i n then bitClear (s.readD n) (s.imm64 i.cmode i.imm8)
      else s.readD n := by
  rcases Bool.eq_false_or_eq_true i.isUndefined with hu | hu
  · rw [exec_undefined hu] at h
    simp [operates, hu, readD_oddQRegister h]
  · rw [exec_vbic hu] at h
    rcases Bool.eq_false_or_eq_true (i.isQ && !isEvenReg i.reg) with hq | hq
    · rw [vbicImmediate_odd hq] at h
      simp [operates, hq, readD_oddQRegister h]
    · rcases vbicImmediate_cases hq h with ⟨hc, he, rfl⟩ | ⟨_, he, rfl⟩ | ⟨_, he, rfl⟩ | ⟨hc, rfl⟩
      · simp [operates, hu, hq, hc, he, State.readD_clearOperand]
      · simp [operates, he]
      · simp [operates, he]
      · simp [operates, hc]

/-- No instruction stops the machine itself: a fault is recorded in the next state (R29). -/
theorem exec_answers_next (i : Instr) (s : State) : ∃ t, exec i s = .next t := by
  cases hu : i.isUndefined with
  | true => exact ⟨_, exec_undefined hu s⟩
  | false =>
    rw [exec_vbic hu, vbicImmediate]
    split
    · exact ⟨_, rfl⟩
    · exact ⟨_, rfl⟩

theorem inOperand_of_readD_ne {i : Instr} {s t : State} (h : exec i s = .next t) {n : RegNum}
    (hne : t.readD n ≠ s.readD n) : inOperand i n := by
  by_contra hn
  exact hne (by rw [readD_exec h, if_neg fun hop => hn hop.2])

/-- The register file plays no part in whether the operation is carried out nor in the immediate, so the
new value of a register depends on that register alone. -/
theorem exec_readD_congr {i : Instr} {s t : State} {n : RegNum} {other : Vector DWord 32}
    (h : exec i s = .next t) (hn : ({ s with regs := other } : State).readD n = s.readD n) :
    ∃ u, exec i { s with regs := other } = .next u ∧ u.readD n = t.readD n := by
  obtain ⟨u, hu⟩ := exec_answers_next i { s with regs := other }
  refine ⟨u, hu, ?_⟩
  rw [readD_exec hu, readD_exec h, hn]
  rfl

/-- Settles O7: the fields of a decoded instruction, and `readD_exec` for what it does to a register. -/
theorem registerOperandIsSixteenDPlusVd : Obligations.RegisterOperandIsSixteenDPlusVd := by
  intro iset w i h
  obtain ⟨hq, hd, _, _⟩ := decode_fields h
  refine ⟨?_, Nat.le_of_lt_succ i.reg.isLt, ?_, decode_second_reg h, ?_, ?_⟩
  · rw [hd, regField_toNat]
  · rw [hq]
    rfl
  · intro s t n hexec hne
    exact inOperand_of_readD_ne hexec hne
  · intro s t n other hexec hn
    exact exec_readD_congr hexec hn

/-- Settles O8: the fields of a decoded instruction, and `readD_exec` at its own register, where the
operation is carried out. -/
theorem immediateIsIImm3Imm4 : Obligations.ImmediateIsIImm3Imm4 := by
  intro iset w i h
  obtain ⟨_, _, hc, hb⟩ := decode_fields h
  refine ⟨?_, hc, ?_⟩
  · rw [hb]
    cases iset with
    | a32 => exact imm8Field_a32_toNat w
    | t32 => exact imm8Field_t32_toNat w
  · intro s hcond hsimd hu
    obtain ⟨t, ht⟩ := exec_answers_next i s
    have hop : operates i s := ⟨hu, by rw [← decode_isUndefined h, hu], hcond, hsimd⟩
    have hreg : inOperand i i.reg := .inl rfl
    refine ⟨t, ht, ?_⟩
    rw [readD_exec ht, if_pos ⟨hop, hreg⟩]
    rfl

end Sys2Proof.Machine
end

section
/-! The operation (O16), bit by bit over the registers of the operand (R44, R59). -/

namespace Sys2Proof.Machine

/-- `x AND NOT(m)` at one bit (R59). -/
theorem getLsbD_bitClear (x m : DWord) {k : Nat} (hk : k < 64) :
    (bitClear x m).getLsbD k = if m.getLsbD k then false else x.getLsbD k := by
  rw [bitClear, BitVec.getLsbD_and, BitVec.getLsbD_not]
  cases m.getLsbD k <;> simp [hk]

/-- The registers `D[d+r]` with `r` below `regs` are the operand (R44). -/
theorem inOperand_add_of_lt_regsOf {i : Instr} {r : Nat} (hr : r < regsOf i.isQ) :
    inOperand i (i.reg + BitVec.ofNat 5 r) := by
  cases hq : i.isQ with
  | false =>
    obtain rfl : r = 0 := by simpa [regsOf, hq] using hr
    exact .inl (BitVec.add_zero i.reg)
  | true =>
    have hr2 : r < 2 := by simpa [regsOf, hq] using hr
    obtain rfl | rfl : r = 0 ∨ r = 1 := by omega
    · exact .inl (BitVec.add_zero i.reg)
    · exact .inr ⟨hq, rfl⟩

/-- A form that admits its register number raises nothing, unless its condition passes and Advanced SIMD
is not enabled (R91, R92). -/
theorem exec_keeps_fault {i : Instr} {s t : State} (hw : wellFormed i = true) (hu : i.isUndefined = false)
    (hsimd : s.conditionPassed = true → s.simdCheck = .enabled) (h : exec i s = .next t) :
    t.fault = s.fault := by
  rw [exec_vbic hu] at h
  rcases vbicImmediate_cases (wellFormed_reg hw hu) h with
    ⟨_, _, rfl⟩ | ⟨hc, he, _⟩ | ⟨hc, he, _⟩ | ⟨_, rfl⟩
  · simp
  · rw [hsimd hc] at he
    cases he
  · rw [hsimd hc] at he
    cases he
  · simp

/-- Settles O16: `readD_exec` says which registers are cleared, `getLsbD_bitClear` which of their bits, and
`exec_keeps_fault` that nothing is raised. -/
theorem operationClearsTheImmediateBits : Obligations.OperationClearsTheImmediateBits := by
  intro i s hw hu
  obtain ⟨t, ht⟩ := exec_answers_next i s
  refine ⟨fun hc he => ?_, even_succ_ne i.reg, fun hc => ?_⟩
  · refine ⟨t, ht, exec_keeps_fault hw hu (fun _ => he) ht, fun r hr k hk => ?_⟩
    have hop : operates i s := ⟨hu, wellFormed_reg hw hu, hc, he⟩
    rw [readD_exec ht, if_pos ⟨hop, inOperand_add_of_lt_regsOf hr⟩]
    exact getLsbD_bitClear _ _ hk
  · have hno : ¬operates i s := fun ⟨_, _, hpass, _⟩ => by simp [hc] at hpass
    refine ⟨t, ht, exec_keeps_fault hw hu (fun hpass => by simp [hc] at hpass) ht, fun n => ?_⟩
    rw [readD_exec ht, if_neg fun hand => hno hand.1]

end Sys2Proof.Machine
end

section
/-! The three faults (O20, O22, O23): what causes each, and that none comes with a register write
(R90 to R92, R95). -/

namespace Sys2Proof

/-! ### The words of the UNDEFINED rows -/

/-- `d<0>` is `Vd<0>`, bit 12 of the word (R44, R47). -/
theorem isEvenReg_regField (w : Word) : isEvenReg (regField w) = !w.getLsbD 12 := by
  rw [isEvenReg, regField, BitVec.setWidth_eq, BitVec.getLsbD_append]
  simp

theorem decode_isUndefined_iff_bits {iset : ISet} {w : Word} {i : Instr} (h : decode iset w = .instr i) :
    i.isUndefined = true ↔ w.getLsbD 6 = true ∧ w.getLsbD 12 = true := by
  obtain ⟨hq, hd, _⟩ := decode_fields h
  rw [decode_isUndefined h, hq, hd, isEvenReg_regField, Bool.not_not, Bool.and_eq_true]

namespace Machine

/-! ### The instructions whose condition passes -/

theorem oddQRegister_of_passed {s : State} (hc : s.conditionPassed = true) :
    oddQRegister s = .next (s.raise (.undefined .oddQRegister)) := by
  rw [oddQRegister, if_pos hc]

/-- A 128-bit form with an odd register number runs as the UNDEFINED encoding does (R90). -/
theorem exec_odd {i : Instr} (ho : i.isUndefined = true ∨ (i.isQ = true ∧ isEvenReg i.reg = false))
    (s : State) : exec i s = oddQRegister s := by
  cases hu : i.isUndefined with
  | true => exact exec_undefined hu s
  | false =>
    obtain ⟨hq, hodd⟩ := ho.resolve_left (by simp [hu])
    rw [exec_vbic hu, vbicImmediate_odd (by simp [hq, hodd])]

/-- Of the eight encodings, an instruction whose condition passes reaches the enable check (R62, R94). -/
theorem exec_of_passed {i : Instr} {s : State} (hw : wellFormed i = true) (hu : i.isUndefined = false)
    (hc : s.conditionPassed = true) :
    exec i s = .next (vbicEnabledPart i.isQ i.reg i.cmode i.imm8 s) := by
  have hadmits : ¬(i.isQ && !isEvenReg i.reg) = true := by simp [wellFormed_reg hw hu]
  rw [exec_vbic hu, vbicImmediate, if_neg hadmits, if_pos hc]

section
variable {q : Bool} {d : RegNum} {cmode : BitVec 4} {imm8 : BitVec 8} {s : State}

theorem vbicEnabledPart_disabled (h : s.simdCheck = .undefined) :
    vbicEnabledPart q d cmode imm8 s = s.raise (.undefined .simdDisabled) := by
  simp only [vbicEnabledPart, h]

theorem vbicEnabledPart_trapped (h : s.simdCheck = .hypTrap) :
    vbicEnabledPart q d cmode imm8 s = s.raise .hypTrap := by
  simp only [vbicEnabledPart, h]

end

/-- A form that admits its register number leaves the record alone or raises a fault of the enable check
(R91, R92). -/
theorem exec_fault_cases {i : Instr} {s t : State} (hu : i.isUndefined = false)
    (hadmits : (i.isQ && !isEvenReg i.reg) = false) (h : exec i s = .next t) :
    t.fault = s.fault ∨ t.fault = some (.undefined .simdDisabled) ∨ t.fault = some .hypTrap := by
  rw [exec_vbic hu] at h
  rcases vbicImmediate_cases hadmits h with ⟨_, _, rfl⟩ | ⟨_, _, rfl⟩ | ⟨_, _, rfl⟩ | ⟨_, rfl⟩
  · exact .inl (by simp)
  · exact .inr (.inl rfl)
  · exact .inr (.inr rfl)
  · exact .inl (by simp)

/-- Settles O20: the bits that make a word UNDEFINED, the raise of a 128-bit form with an odd register
number, and `exec_fault_cases` for every other form. -/
theorem oddQuadFormIsUndefined : Obligations.OddQuadFormIsUndefined := by
  refine ⟨fun iset w i h => decode_isUndefined_iff_bits h, fun i s hc ho => ?_,
    fun i s t hu heven h hs => ?_⟩
  · exact ⟨_, (exec_odd ho s).trans (oddQRegister_of_passed hc), rfl, rfl⟩
  · have hadmits : (i.isQ && !isEvenReg i.reg) = false := by simpa using heven
    rcases exec_fault_cases hu hadmits h with hf | hf | hf
    · rwa [hf]
    · simp [hf]
    · simp [hf]

/-- Settles O22: the check is reached, and answers by raising (R91). -/
theorem disabledSimdRaisesUndefined : Obligations.DisabledSimdRaisesUndefined := by
  intro i s hw hu hc hsimd
  have hexec : exec i s = .next (s.raise (.undefined .simdDisabled)) := by
    rw [exec_of_passed hw hu hc, vbicEnabledPart_disabled hsimd]
  exact ⟨_, hexec, rfl, rfl⟩

/-- Settles O23: the check is reached, and answers by raising (R92). -/
theorem trappedSimdRaisesHypTrap : Obligations.TrappedSimdRaisesHypTrap := by
  intro i s hw hu hc hsimd
  have hexec : exec i s = .next (s.raise .hypTrap) := by
    rw [exec_of_passed hw hu hc, vbicEnabledPart_trapped hsimd]
  exact ⟨_, hexec, rfl, rfl⟩

end Machine
end Sys2Proof
end

section
/-! The round trip (O1, O2): the constant bits and the fields of a word determine it (R39, R40, R46), and
an encoded word has the fields it was made from. -/

namespace Sys2Proof

/-! ### The constant bits of the group -/

theorem inGroup_iff (iset : ISet) (w : Word) :
    inGroup iset w = true ↔ w &&& groupMask iset = groupMatch iset := beq_iff_eq

theorem inGroup_bit {iset : ISet} {w : Word} (h : inGroup iset w = true) {k : Nat}
    (hk : (groupMask iset).getLsbD k = true) : w.getLsbD k = (groupMatch iset).getLsbD k := by
  rw [← (inGroup_iff iset w).1 h, BitVec.getLsbD_and, hk, Bool.and_true]

/-- The two groups differ in bit 27 (R41). -/
theorem not_inGroup_both (w : Word) : ¬(inGroup .a32 w = true ∧ inGroup .t32 w = true) := by
  rintro ⟨ha, ht⟩
  have h0 : w.getLsbD 27 = false := inGroup_bit ha (by decide)
  have h1 : w.getLsbD 27 = true := inGroup_bit ht (by decide)
  rw [h0] at h1
  cases h1

theorem inGroup_unique {iset₁ iset₂ : ISet} {w : Word} (h₁ : inGroup iset₁ w = true)
    (h₂ : inGroup iset₂ w = true) : iset₁ = iset₂ := by
  cases iset₁ with
  | a32 =>
    cases iset₂ with
    | a32 => rfl
    | t32 => exact absurd ⟨h₁, h₂⟩ (not_inGroup_both w)
  | t32 =>
    cases iset₂ with
    | a32 => exact absurd ⟨h₂, h₁⟩ (not_inGroup_both w)
    | t32 => rfl

/-! ### The fields of an encoded word -/

section
variable (iset : ISet) (q : Bool) (d : RegNum) (cmode : BitVec 4) (imm8 : BitVec 8)

theorem inGroup_encodeFields : inGroup iset (encodeFields iset q d cmode imm8) = true := by
  refine (inGroup_iff _ _).2 (BitVec.eq_of_getLsbD_eq fun k hk => ?_)
  rw [BitVec.getLsbD_and]
  cases iset with
  | a32 =>
    simp only [Laws.encodeFields_bit_a32, groupMask, groupMatch, BitVec.getLsbD_append]
    interval_cases k <;> simp
  | t32 =>
    simp only [Laws.encodeFields_bit_t32, groupMask, groupMatch, BitVec.getLsbD_append]
    interval_cases k <;> simp

/-- A register number is `16*D + Vd` of its own bits (R44). -/
theorem regNum_toNat (d : RegNum) : d.toNat = 16 * (d.getLsbD 4).toNat + (d.extractLsb' 0 4).toNat := by
  revert d; decide

/-- `imm8` is `i:imm3:imm4` of its own bits (R43). -/
theorem imm8_toNat (imm8 : BitVec 8) : imm8.toNat =
    128 * (imm8.getLsbD 7).toNat + 16 * (imm8.extractLsb' 4 3).toNat + (imm8.extractLsb' 0 4).toNat := by
  revert imm8; decide

theorem regField_encodeFields : regField (encodeFields iset q d cmode imm8) = d := by
  obtain ⟨_, _, hvd, _, _⟩ := encodeFields_fields iset q d cmode imm8
  obtain ⟨hD, _⟩ := encodeFields_bits iset q d cmode imm8
  exact BitVec.eq_of_toNat_eq (by rw [regField_toNat, hvd, hD, regNum_toNat])

theorem imm8Field_encodeFields : imm8Field iset (encodeFields iset q d cmode imm8) = imm8 := by
  obtain ⟨_, himm3, _, _, himm4⟩ := encodeFields_fields iset q d cmode imm8
  refine BitVec.eq_of_toNat_eq ?_
  cases iset with
  | a32 =>
    obtain ⟨_, hi, _⟩ := encodeFields_a32_top q d cmode imm8
    rw [imm8Field_a32_toNat, hi, himm3, himm4, imm8_toNat]
  | t32 =>
    obtain ⟨_, hi, _⟩ := encodeFields_t32_top q d cmode imm8
    rw [imm8Field_t32_toNat, hi, himm3, himm4, imm8_toNat]

end

/-- A word of the group is the diagram filled with its own fields: at a bit of the group's mask both have
the constant, at any other bit both have the field. -/
theorem encodeFields_of_fields {iset : ISet} {w : Word} (h : inGroup iset w = true) :
    encodeFields iset (w.getLsbD 6) (regField w) (cmodeField w) (imm8Field iset w) = w := by
  refine BitVec.eq_of_getLsbD_eq fun k hk => ?_
  cases hm : (groupMask iset).getLsbD k with
  | true => rw [inGroup_bit (inGroup_encodeFields ..) hm, inGroup_bit h hm]
  | false =>
    cases iset with
    | a32 =>
      rw [Laws.encodeFields_bit_a32]
      simp only [BitVec.getLsbD_append, BitVec.getLsbD_extractLsb', regField, cmodeField, imm8Field,
        BitVec.setWidth_eq]
      interval_cases k <;> simp [groupMask] at hm ⊢
    | t32 =>
      rw [Laws.encodeFields_bit_t32]
      simp only [BitVec.getLsbD_append, BitVec.getLsbD_extractLsb', regField, cmodeField, imm8Field,
        BitVec.setWidth_eq]
      interval_cases k <;> simp [groupMask] at hm ⊢

/-! ### Well-formed instructions are those of a set of fields (R45, R47) -/

theorem seeRelated_eq (cmode : BitVec 4) : seeRelated cmode = !(isClass1 cmode || isClass2 cmode) := by
  revert cmode; decide

/-- The two classes are told apart by `cmode<3>`. -/
theorem class_of_not_related {cmode : BitVec 4} (h : seeRelated cmode = false) :
    isClass1 cmode = !cmode.getLsbD 3 ∧ isClass2 cmode = cmode.getLsbD 3 := by
  revert cmode; decide

theorem class_of_wellFormed {i : Instr} (hw : wellFormed i = true) :
    (isClass1 i.cmode || isClass2 i.cmode) = true := by
  cases hc : i.inClass2 with
  | false => simp [wellFormed_isClass1 hw hc]
  | true => simp [wellFormed_isClass2 hw hc]

/-- Where `cmode` is of either class, the instruction of a set of fields is well-formed, and of the
instruction set and class of the fields. -/
theorem instrOfFields_wellFormed {iset : ISet} {q : Bool} {d : RegNum} {cmode : BitVec 4}
    {imm8 : BitVec 8} (h : seeRelated cmode = false) :
    wellFormed (instrOfFields iset q d cmode imm8) = true ∧
      (instrOfFields iset q d cmode imm8).iset = iset ∧
      (instrOfFields iset q d cmode imm8).inClass2 = cmode.getLsbD 3 := by
  obtain ⟨h1, h2⟩ := class_of_not_related h
  unfold instrOfFields
  split <;> simp_all [wellFormed, Instr.iset, Instr.inClass2]

theorem instrOfFields_self {i : Instr} (hw : wellFormed i = true) :
    instrOfFields i.iset i.isQ i.reg i.cmode i.imm8 = i := by
  cases i <;> simp_all [instrOfFields, wellFormed, Instr.iset, Instr.isQ, Instr.reg, Instr.cmode,
    Instr.imm8, isClass1, isClass2]

theorem inGroup_encode (i : Instr) : inGroup i.iset (encode i) = true :=
  inGroup_encodeFields ..

theorem decode_encode {i : Instr} (hw : wellFormed i = true) : decode i.iset (encode i) = .instr i := by
  obtain ⟨_, _, hq, _⟩ := encodeFields_bits i.iset i.isQ i.reg i.cmode i.imm8
  refine (decode_eq_instr_iff _ _ _).2 ⟨inGroup_encode i, ?_, ?_⟩
  · rw [cmodeField_encode, seeRelated_eq, class_of_wellFormed hw, Bool.not_true]
  · rw [cmodeField_encode, encode, hq, regField_encodeFields, imm8Field_encodeFields,
      instrOfFields_self hw]

/-- Everything a decoded instruction says of its word. -/
theorem decode_sound {iset : ISet} {w : Word} {i : Instr} (h : decode iset w = .instr i) :
    wellFormed i = true ∧ i.iset = iset ∧ encode i = w := by
  obtain ⟨hg, hr, rfl⟩ := (decode_eq_instr_iff iset w i).1 h
  obtain ⟨hw, hi, _⟩ := instrOfFields_wellFormed (iset := iset) (q := w.getLsbD 6) (d := regField w)
    (imm8 := imm8Field iset w) hr
  obtain ⟨hq, hd, hc, hb, _⟩ := instrOfFields_fields iset (w.getLsbD 6) (regField w) (cmodeField w)
    (imm8Field iset w)
  refine ⟨hw, hi, ?_⟩
  rw [encode, hi, hq, hd, hc, hb, encodeFields_of_fields hg]

/-- Settles O1: the fields of an encoded word are those of its instruction. -/
theorem encodedInstructionDecodesToItself : Obligations.EncodedInstructionDecodesToItself :=
  fun _ hw => decode_encode hw

/-- Settles O2: a word of the group is the diagram filled with its own fields. -/
theorem decodedWordIsTheEncodingOfItsInstruction :
    Obligations.DecodedWordIsTheEncodingOfItsInstruction :=
  fun _ _ _ h => decode_sound h

end Sys2Proof
end

section
/-! The opcode table (O3, O4, O6, O9 to O11): the row of an instruction asks for the constant bits of the
group and for the cells of `cmode`, `Q` and, in the UNDEFINED rows, `Vd<0>` (R48, R55). -/

namespace Sys2Proof

/-! ### Masked words, bit by bit -/

theorem and_mask_eq_iff {w m v : Word} (hv : v &&& m = v) :
    w &&& m = v ↔ ∀ k < 32, m.getLsbD k = true → w.getLsbD k = v.getLsbD k := by
  constructor
  · rintro rfl k _ hk
    rw [BitVec.getLsbD_and, hk, Bool.and_true]
  · intro hw
    refine BitVec.eq_of_getLsbD_eq fun k hk => ?_
    rw [← hv, BitVec.getLsbD_and, BitVec.getLsbD_and]
    cases hm : m.getLsbD k with
    | true => rw [hw k hk hm]
    | false => simp

/-- Two masks without a common bit together ask for what each asks for. -/
theorem and_or_mask_eq_iff {w m₁ m₂ v₁ v₂ : Word} (hm : m₁ &&& m₂ = 0#32) (hv₁ : v₁ &&& m₁ = v₁)
    (hv₂ : v₂ &&& m₂ = v₂) : w &&& (m₁ ||| m₂) = v₁ ||| v₂ ↔ w &&& m₁ = v₁ ∧ w &&& m₂ = v₂ := by
  have bits (k : Nat) : (m₁.getLsbD k && m₂.getLsbD k) = false ∧
      (v₁.getLsbD k && m₁.getLsbD k) = v₁.getLsbD k ∧ (v₂.getLsbD k && m₂.getLsbD k) = v₂.getLsbD k := by
    refine ⟨?_, ?_, ?_⟩
    · rw [← BitVec.getLsbD_and, hm, BitVec.getLsbD_zero]
    · rw [← BitVec.getLsbD_and, hv₁]
    · rw [← BitVec.getLsbD_and, hv₂]
  have hv : (v₁ ||| v₂) &&& (m₁ ||| m₂) = v₁ ||| v₂ := BitVec.eq_of_getLsbD_eq fun k _ => by
    obtain ⟨_, hv1k, hv2k⟩ := bits k
    rw [BitVec.getLsbD_and, BitVec.getLsbD_or, BitVec.getLsbD_or, ← hv1k, ← hv2k]
    cases m₁.getLsbD k <;> cases m₂.getLsbD k <;> simp
  rw [and_mask_eq_iff hv₁, and_mask_eq_iff hv₂, and_mask_eq_iff hv, ← forall₂_and]
  refine forall₂_congr fun k _ => ?_
  obtain ⟨hmk, hv1k, hv2k⟩ := bits k
  rw [BitVec.getLsbD_or, BitVec.getLsbD_or]
  cases hm1 : m₁.getLsbD k <;> cases hm2 : m₂.getLsbD k <;> simp_all

/-! ### The rows -/

/-- The bits a row asks for beside those of its group: bits 11 and 8 of `cmode`, bit 10 in class 2, `Q`,
and bit 12 in the UNDEFINED rows (R45, R48, R55). -/
def cellMask (class2 undef : Bool) : Word :=
  0x940#32 ||| (if class2 then 0x400#32 else 0#32) ||| (if undef then 0x1000#32 else 0#32)

/-- The values of those bits. -/
def cellMatch (class2 q undef : Bool) : Word :=
  0x100#32 ||| (if class2 then 0x800#32 else 0#32) ||| (if q then 0x40#32 else 0#32)
    ||| (if undef then 0x1000#32 else 0#32)

theorem row_eq (i : Instr) :
    i.row = ⟨i.iset, groupMask i.iset ||| cellMask i.inClass2 i.isUndefined,
      groupMatch i.iset ||| cellMatch i.inClass2 i.isQ i.isUndefined⟩ := by
  cases i <;> simp [Instr.row, Instr.iset, Instr.isQ, Instr.inClass2, Instr.isUndefined, groupMask,
    groupMatch, cellMask, cellMatch]

theorem and_cellMask_eq_iff (class2 q undef : Bool) (w : Word) :
    w &&& cellMask class2 undef = cellMatch class2 q undef ↔
      w.getLsbD 8 = true ∧ w.getLsbD 11 = class2 ∧ (class2 = true → w.getLsbD 10 = false) ∧
        w.getLsbD 6 = q ∧ (undef = true → w.getLsbD 12 = true) := by
  rw [and_mask_eq_iff (by revert class2 q undef; decide)]
  simp only [Nat.forall_lt_succ_right]
  cases class2 <;> cases q <;> cases undef <;> simp [cellMask, cellMatch] <;> tauto

theorem matchesWord_row_iff (i : Instr) (w : Word) :
    i.row.matchesWord w = true ↔ inGroup i.iset w = true ∧ w.getLsbD 8 = true ∧
      w.getLsbD 11 = i.inClass2 ∧ (i.inClass2 = true → w.getLsbD 10 = false) ∧
        w.getLsbD 6 = i.isQ ∧ (i.isUndefined = true → w.getLsbD 12 = true) := by
  rw [row_eq, TableRow.matchesWord, beq_iff_eq, and_or_mask_eq_iff, and_cellMask_eq_iff, inGroup_iff]
  · cases i.iset <;> cases i.inClass2 <;> cases i.isUndefined <;> decide
  · cases i.iset <;> decide
  · cases i.inClass2 <;> cases i.isUndefined <;> cases i.isQ <;> decide

/-- The word of a well-formed instruction meets its row. -/
theorem matchesWord_encode {i : Instr} (hw : wellFormed i = true) : i.row.matchesWord (encode i) = true := by
  cases i with
  | vbicA1D d c b => exact Laws.RowOfEncoding.vbicA1D d c b hw
  | vbicA1Q d c b => exact Laws.RowOfEncoding.vbicA1Q d c b hw
  | vbicA2D d c b => exact Laws.RowOfEncoding.vbicA2D d c b hw
  | vbicA2Q d c b => exact Laws.RowOfEncoding.vbicA2Q d c b hw
  | vbicT1D d c b => exact Laws.RowOfEncoding.vbicT1D d c b hw
  | vbicT1Q d c b => exact Laws.RowOfEncoding.vbicT1Q d c b hw
  | vbicT2D d c b => exact Laws.RowOfEncoding.vbicT2D d c b hw
  | vbicT2Q d c b => exact Laws.RowOfEncoding.vbicT2Q d c b hw
  | undefinedA1Q d c b => exact Laws.RowOfEncoding.undefinedA1Q d c b hw
  | undefinedA2Q d c b => exact Laws.RowOfEncoding.undefinedA2Q d c b hw
  | undefinedT1Q d c b => exact Laws.RowOfEncoding.undefinedT1Q d c b hw
  | undefinedT2Q d c b => exact Laws.RowOfEncoding.undefinedT2Q d c b hw

theorem isQ_of_isUndefined {i : Instr} (h : i.isUndefined = true) : i.isQ = true := by
  cases i <;> simp_all [Instr.isUndefined, Instr.isQ]

theorem row_iset (i : Instr) : i.row.iset = i.iset := by rw [row_eq]

/-! ### The decoder on a word of the group -/

theorem decode_of_inGroup {iset : ISet} {w : Word} (h : inGroup iset w = true)
    (hr : seeRelated (cmodeField w) = false) : decode iset w =
      .instr (instrOfFields iset (w.getLsbD 6) (regField w) (cmodeField w) (imm8Field iset w)) :=
  (decode_eq_instr_iff iset w _).2 ⟨h, hr, rfl⟩

theorem decode_eq_notVBIC_iff (iset : ISet) (w : Word) :
    decode iset w = .notVBIC ↔ inGroup iset w = false := by
  unfold decode
  cases inGroup iset w <;> cases seeRelated (cmodeField w) <;> simp

theorem decode_eq_related_iff (iset : ISet) (w : Word) :
    decode iset w = .related ↔ inGroup iset w = true ∧ seeRelated (cmodeField w) = true := by
  unfold decode
  cases inGroup iset w <;> cases seeRelated (cmodeField w) <;> simp

/-- The "Related encodings" test on the cells of the word. -/
theorem seeRelated_cmodeField (w : Word) :
    seeRelated (cmodeField w) = (!w.getLsbD 8 || (w.getLsbD 11 && w.getLsbD 10)) := by
  simp [seeRelated, cmodeField]

theorem decode_of_matchesWord {j : Instr} {w : Word} (h : j.row.matchesWord w = true)
    (hodd : (w.getLsbD 6 && w.getLsbD 12) = j.isUndefined) :
    ∃ i : Instr, decode j.iset w = .instr i ∧ i.row = j.row := by
  obtain ⟨hg, h8, h11, h10, h6, _⟩ := (matchesWord_row_iff j w).1 h
  have hr : seeRelated (cmodeField w) = false := by
    rw [seeRelated_cmodeField, h8, h11]
    cases hc : j.inClass2 with
    | false => rfl
    | true => rw [h10 hc]; rfl
  obtain ⟨_, hi, hclass⟩ := instrOfFields_wellFormed (iset := j.iset) (q := w.getLsbD 6)
    (d := regField w) (imm8 := imm8Field j.iset w) hr
  obtain ⟨hq, _, _, _, hu⟩ := instrOfFields_fields j.iset (w.getLsbD 6) (regField w) (cmodeField w)
    (imm8Field j.iset w)
  obtain ⟨h11', _⟩ := cells_eq_cmodeField w
  refine ⟨_, decode_of_inGroup hg hr, ?_⟩
  rw [row_eq, row_eq j, hi, hclass, hq, hu, isEvenReg_regField, Bool.not_not, hodd, h6, ← h11', h11]

/-- Settles O3: a decoded word is the encoding of its instruction and so meets its row; a word that meets a
row has the fields of an instruction of that row. -/
theorem decodeFollowsTheOpcodeTable : Obligations.DecodeFollowsTheOpcodeTable := by
  refine fun iset w => ⟨fun i h => ?_, fun j hi h hu => ?_, fun j hi h hu hodd => ?_⟩
  · obtain ⟨hw, hi, rfl⟩ := decode_sound h
    exact ⟨(row_iset i).trans hi, matchesWord_encode hw⟩
  · obtain ⟨_, _, _, _, h6, h12⟩ := (matchesWord_row_iff j w).1 h
    rw [row_iset] at hi
    rw [← hi]
    exact decode_of_matchesWord h (by rw [h6, h12 hu, isQ_of_isUndefined hu, hu]; rfl)
  · obtain ⟨_, _, _, _, h6, _⟩ := (matchesWord_row_iff j w).1 h
    rw [row_iset] at hi
    rw [← hi]
    refine decode_of_matchesWord h ?_
    rw [h6, hu]
    cases hq : j.isQ with
    | false => rfl
    | true => rw [hodd hq]; rfl

/-- Settles O4: a word that meets two rows has one instruction set, one class and one `Q`. -/
theorem opcodeTablePatternsAreDisjoint : Obligations.OpcodeTablePatternsAreDisjoint := by
  intro i j w hiu hju hi hj
  obtain ⟨hig, _, hi11, _, hi6, _⟩ := (matchesWord_row_iff i w).1 hi
  obtain ⟨hjg, _, hj11, _, hj6, _⟩ := (matchesWord_row_iff j w).1 hj
  have hiset : i.iset = j.iset := inGroup_unique hig hjg
  rw [row_eq, row_eq j, hiset, hiu, hju, ← hi11, ← hj11, ← hi6, ← hj6]

/-- The lists of `cmode` values are those of class 1, of class 2, and of the related encodings (R45, R49). -/
theorem cmode_lists (c : BitVec 4) :
    (c ∈ [0b0001#4, 0b0011#4, 0b0101#4, 0b0111#4] → seeRelated c = false ∧ c.getLsbD 3 = false) ∧
    (c ∈ [0b1001#4, 0b1011#4] → seeRelated c = false ∧ c.getLsbD 3 = true) ∧
    (c ∉ [0b0001#4, 0b0011#4, 0b0101#4, 0b0111#4, 0b1001#4, 0b1011#4] → seeRelated c = true) := by
  revert c; decide

theorem decode_class_of_inGroup {iset : ISet} {w : Word} {class2 : Bool} (h : inGroup iset w = true)
    (hc : seeRelated (cmodeField w) = false ∧ (cmodeField w).getLsbD 3 = class2) :
    ∃ i, decode iset w = .instr i ∧ i.inClass2 = class2 := by
  obtain ⟨hr, rfl⟩ := hc
  obtain ⟨_, _, hclass⟩ := instrOfFields_wellFormed (iset := iset) (q := w.getLsbD 6)
    (d := regField w) (imm8 := imm8Field iset w) hr
  exact ⟨_, decode_of_inGroup h hr, hclass⟩

/-- Settles O9: `cmode_lists` for the class of the decoded instruction, or the refusal. -/
theorem cmodeSelectsTheClass : Obligations.CmodeSelectsTheClass := by
  intro iset w h
  have hg := (inGroup_iff iset w).2 h
  obtain ⟨h1, h2, h3⟩ := cmode_lists (cmodeField w)
  exact ⟨fun hc => decode_class_of_inGroup hg (h1 hc), fun hc => decode_class_of_inGroup hg (h2 hc),
    fun hc => (decode_eq_related_iff iset w).2 ⟨hg, h3 hc⟩⟩

/-- The T32 diagram is the A32 diagram with `111` above `i`, moved to bit 28, and `1111` below it (R41). -/
theorem encodeFields_t32_eq (q : Bool) (d : RegNum) (cmode : BitVec 4) (imm8 : BitVec 8) :
    encodeFields .t32 q d cmode imm8 =
      (encodeFields .a32 q d cmode imm8 &&& 0x00FFFFFF#32) ||| 0xEF000000#32 |||
        (((encodeFields .a32 q d cmode imm8).extractLsb' 24 1).setWidth 32 <<< 28) := by
  refine BitVec.eq_of_getLsbD_eq fun k hk => ?_
  simp only [BitVec.getLsbD_or, BitVec.getLsbD_and, BitVec.getLsbD_shiftLeft, BitVec.getLsbD_setWidth,
    BitVec.getLsbD_extractLsb', Laws.encodeFields_bit_a32, Laws.encodeFields_bit_t32,
    BitVec.getLsbD_append]
  interval_cases k <;> simp

/-- Settles O10: the diagram alone decides, whatever the operands. -/
theorem t32EncodingFromA32Encoding : Obligations.T32EncodingFromA32Encoding :=
  ⟨fun d cmode imm8 => ⟨encodeFields_t32_eq false d cmode imm8, encodeFields_t32_eq true d cmode imm8,
    encodeFields_t32_eq false d cmode imm8, encodeFields_t32_eq true d cmode imm8⟩, not_inGroup_both⟩

/-- Settles O11, by running the decoder. -/
theorem wordsOfTheSpecDecode : Obligations.WordsOfTheSpecDecode := by
  unfold Obligations.WordsOfTheSpecDecode
  decide

end Sys2Proof
end

section
/-! What an instruction does as a whole: the exact next state where the operation is carried out or the
condition fails (O12 to O15, O18, O19, O21), the order of the checks (O24), precise faults (O25), the frame
(O26) and the fault record (O28, O29). -/

namespace Sys2Proof.Machine

/-! ### Completing (R25, R26, R63) -/

theorem State.complete_a32_eq {s : State} (h : s.iset = .a32) :
    s.complete = { s with pc := s.pc + 4#32 } :=
  State.complete_a32 h

theorem State.complete_t32_eq {s : State} (h : s.iset = .t32) :
    s.complete = { s with pc := s.pc + 4#32, condContext := s.condContext.tail } := by
  simp [State.complete, State.advanceCond, State.advancePc, h]

theorem State.iset_of_condition_failed {s : State} (hc : s.conditionPassed = false) : s.iset = .t32 := by
  cases hi : s.iset with
  | a32 => simp [State.conditionPassed_a32 hi] at hc
  | t32 => rfl

/-! ### The operation carried out -/

theorem exec_of_operates {i : Instr} {s : State} (h : operates i s) :
    exec i s = .next (s.clearOperand i.isQ i.reg i.cmode i.imm8).complete := by
  obtain ⟨hu, hadmits, hc, he⟩ := h
  rw [exec_vbic hu, vbicImmediate, if_neg (by simp [hadmits]), if_pos hc]
  simp only [vbicEnabledPart, he]

/-- In A32 the operation clears the operand and moves `pc`. -/
theorem exec_of_operates_a32 {i : Instr} {s : State} (hi : s.iset = .a32) (h : operates i s) :
    exec i s = .next { s.clearOperand i.isQ i.reg i.cmode i.imm8 with pc := s.pc + 4#32 } := by
  rw [exec_of_operates h, State.complete_a32_eq (by simpa using hi), State.clearOperand_pc]

/-- In T32 it takes the first entry off the condition context as well. -/
theorem exec_of_operates_t32 {i : Instr} {s : State} (hi : s.iset = .t32) (h : operates i s) :
    exec i s = .next { s.clearOperand i.isQ i.reg i.cmode i.imm8 with
      pc := s.pc + 4#32, condContext := s.condContext.tail } := by
  rw [exec_of_operates h, State.complete_t32_eq (by simpa using hi), State.clearOperand_pc,
    State.clearOperand_condContext]

theorem quad_admits {d : RegNum} (h : isEvenReg d = true) : (true && !isEvenReg d) = false := by
  rw [h]
  rfl

/-- Settles O12: in A32 the condition passes, so the operation is carried out. -/
theorem a32DoubleFormsClearOneRegister : Obligations.A32DoubleFormsClearOneRegister := by
  intro d cmode imm8 s hi he
  have hc := State.conditionPassed_a32 hi
  exact ⟨exec_of_operates_a32 (i := .vbicA1D d cmode imm8) hi ⟨rfl, rfl, hc, he⟩,
    exec_of_operates_a32 (i := .vbicA2D d cmode imm8) hi ⟨rfl, rfl, hc, he⟩⟩

/-- Settles O13: as O12, the operand being the pair (`State.clearOperand_quad`). -/
theorem a32QuadFormsClearTwoRegisters : Obligations.A32QuadFormsClearTwoRegisters := by
  intro d cmode imm8 s hi he heven
  have hc := State.conditionPassed_a32 hi
  have hquad := s.clearOperand_quad d cmode imm8
  unfold bitClear at hquad
  rw [← hquad]
  exact ⟨exec_of_operates_a32 (i := .vbicA1Q d cmode imm8) hi ⟨rfl, quad_admits heven, hc, he⟩,
    exec_of_operates_a32 (i := .vbicA2Q d cmode imm8) hi ⟨rfl, quad_admits heven, hc, he⟩⟩

/-- Settles O14: the condition passes by assumption, so the operation is carried out. -/
theorem t32DoubleFormsClearOneRegister : Obligations.T32DoubleFormsClearOneRegister := by
  intro d cmode imm8 s hi hc he
  exact ⟨exec_of_operates_t32 (i := .vbicT1D d cmode imm8) hi ⟨rfl, rfl, hc, he⟩,
    exec_of_operates_t32 (i := .vbicT2D d cmode imm8) hi ⟨rfl, rfl, hc, he⟩⟩

/-- Settles O15: as O14, the operand being the pair (`State.clearOperand_quad`). -/
theorem t32QuadFormsClearTwoRegisters : Obligations.T32QuadFormsClearTwoRegisters := by
  intro d cmode imm8 s hi hc he heven
  have hquad := s.clearOperand_quad d cmode imm8
  unfold bitClear at hquad
  rw [← hquad]
  exact ⟨exec_of_operates_t32 (i := .vbicT1Q d cmode imm8) hi ⟨rfl, quad_admits heven, hc, he⟩,
    exec_of_operates_t32 (i := .vbicT2Q d cmode imm8) hi ⟨rfl, quad_admits heven, hc, he⟩⟩

/-! ### The condition fails, or the register number is odd -/

theorem exec_of_failed {i : Instr} {s : State} (hu : i.isUndefined = false)
    (hadmits : (i.isQ && !isEvenReg i.reg) = false) (hc : s.conditionPassed = false) :
    exec i s = .next s.complete := by
  rw [exec_vbic hu, vbicImmediate, if_neg (by simp [hadmits]), if_neg (by simp [hc])]

theorem oddQRegister_of_failed {s : State} (hc : s.conditionPassed = false) :
    oddQRegister s = .next (oddQConditionFailed s) := by
  rw [oddQRegister, if_neg (by simp [hc])]

/-- Everything an instruction can do when its condition fails: the enable check is not reached. -/
theorem exec_failed_cases {i : Instr} {s t : State} (hc : s.conditionPassed = false)
    (h : exec i s = .next t) :
    t = s.complete ∨ t = s.raise (.undefined .oddQRegister) ∨ t = s.completeByChoice := by
  by_cases ho : i.isUndefined = true ∨ (i.isQ = true ∧ isEvenReg i.reg = false)
  · rw [exec_odd ho, oddQRegister_of_failed hc] at h
    cases h
    exact oddQConditionFailed_cases s
  · obtain ⟨hu, hq⟩ := not_or.1 ho
    have hadmits : (i.isQ && !isEvenReg i.reg) = false := by simpa using hq
    rw [Bool.not_eq_true] at hu
    rw [exec_of_failed hu hadmits hc] at h
    cases h
    exact .inl rfl

/-- Settles O18: the operation completes without a check or a write (R63). -/
theorem failedConditionIsNoOp : Obligations.FailedConditionIsNoOp := by
  intro i s hw hu hi hc
  rw [exec_of_failed hu (wellFormed_reg hw hu) hc, State.complete_t32_eq hi]

/-- Settles O19: an UNDEFINED encoding whose condition passes raises (R90). -/
theorem undefinedSubspacesRaiseOddQRegister : Obligations.UndefinedSubspacesRaiseOddQRegister := by
  intro d cmode imm8 s hc
  have hraise {i : Instr} (hu : i.isUndefined = true) :
      exec i s = .next { s with fault := some (.undefined .oddQRegister) } :=
    (exec_undefined hu s).trans (oddQRegister_of_passed hc)
  exact ⟨hraise rfl, hraise rfl, hraise rfl, hraise rfl⟩

/-- Settles O21: the three values of the parameter (R93), and `exec_failed_cases` for the enable check. -/
theorem undefinedEncodingWithFailedCondition : Obligations.UndefinedEncodingWithFailedCondition := by
  refine ⟨fun i s hu hc => ?_, fun i s t hc hf h => ?_⟩
  · have hi := State.iset_of_condition_failed hc
    rw [exec_undefined hu, oddQRegister_of_failed hc]
    unfold oddQConditionFailed
    refine ⟨hi, fun hp => ?_, fun hp => ?_, fun hp => ?_⟩
    · rw [hp, State.complete_t32_eq hi]
    · rw [hp]
      rfl
    · rw [hp]
      cases Config.undefOnFailedCondition s.freeChoices with
      | true => exact .inl rfl
      | false =>
        refine .inr ?_
        simp [State.completeByChoice, State.complete_t32_eq hi]
  · rcases exec_failed_cases hc h with rfl | rfl | rfl <;> simp [hf]

/-! ### Faults -/

theorem vbicEnabledPart_enabled {q : Bool} {d : RegNum} {cmode : BitVec 4} {imm8 : BitVec 8} {s : State}
    (h : s.simdCheck = .enabled) :
    vbicEnabledPart q d cmode imm8 s = (s.clearOperand q d cmode imm8).complete := by
  simp only [vbicEnabledPart, h]

/-- Settles O24: what each check answers decides the fault, and only the last one lets a write through. -/
theorem checksAreOrdered : Obligations.ChecksAreOrdered := by
  intro i s hw hc hf
  cases hu : i.isUndefined with
  | true =>
    refine ⟨_, (exec_undefined hu s).trans (oddQRegister_of_passed hc), ?_⟩
    simp
  | false =>
    refine ⟨_, exec_of_passed hw hu hc, ?_⟩
    cases he : s.simdCheck with
    | undefined => simp [vbicEnabledPart_disabled he]
    | hypTrap => simp [vbicEnabledPart_trapped he]
    | enabled => simp [vbicEnabledPart_enabled he, hf]

theorem step_of_faulted {s : State} {r : Fault} (h : s.fault = some r) : step s = .fault r := by
  simp only [step, h]

/-- An instruction that starts without a fault completes, or does nothing but raise (R95). -/
theorem exec_completes_or_raises {i : Instr} {s t : State} (hf : s.fault = none) (h : exec i s = .next t) :
    (t.fault = none ∧ t.pc = s.pc + 4#32) ∨ ∃ r, t = s.raise r := by
  rcases exec_cases h with ⟨r, rfl, _⟩ | rfl | ⟨rfl, _⟩ | ⟨_, _, _, _, rfl⟩
  · exact .inr ⟨r, rfl⟩
  all_goals exact .inl (by simp [hf])

/-- Settles O25: `exec_completes_or_raises`, and `readD_exec` at once for both registers of a pair. -/
theorem faultsArePreciseAndTerminal : Obligations.FaultsArePreciseAndTerminal := by
  refine ⟨fun i s t hf h => ?_, fun i s t _ h => ?_⟩
  · rcases exec_completes_or_raises hf h with hcompletes | ⟨r, rfl⟩
    · exact .inl hcompletes
    · exact .inr ⟨r, rfl, step_of_faulted rfl⟩
  · by_cases hop : operates i s
    · exact .inl fun n hn => by rw [readD_exec h, if_pos ⟨hop, hn⟩]
    · exact .inr fun n => by rw [readD_exec h, if_neg fun hand => hop hand.1]

/-- Settles O28: no outcome of `exec_cases` clears the record. -/
theorem faultRecordIsNeverCleared : Obligations.FaultRecordIsNeverCleared := by
  refine ⟨rfl, fun i s t hf h => ?_, fun s r hf => step_of_faulted hf⟩
  rcases exec_cases h with ⟨r, rfl, _⟩ | rfl | ⟨rfl, _⟩ | ⟨_, _, _, _, rfl⟩
  · simp
  all_goals simpa using hf

/-- Settles O29: both shared operations answer a next state. -/
theorem everyInstructionAnswersANextState : Obligations.EveryInstructionAnswersANextState :=
  exec_answers_next

/-! ### The frame (R27) -/

theorem State.regs_ext {s t : State} (h : ∀ n, t.readD n = s.readD n) : t.regs = s.regs :=
  Vector.ext fun k hk => by simpa [State.readD, Nat.mod_eq_of_lt hk] using h (BitVec.ofNat 5 k)

theorem exec_text {i : Instr} {s t : State} (h : exec i s = .next t) : t.text = s.text := by
  rcases exec_cases h with ⟨r, rfl, _⟩ | rfl | ⟨rfl, _⟩ | ⟨_, _, _, _, rfl⟩ <;> simp

theorem exec_sameUnwritten {i : Instr} {s t : State} (h : exec i s = .next t) : s.sameUnwritten t := by
  have htext : ∀ a : Addr, t.textByte a = s.textByte a := fun a => by
    rw [State.textByte, exec_text h, State.textByte]
  rcases exec_cases h with ⟨r, rfl, _⟩ | rfl | ⟨rfl, _⟩ | ⟨_, _, _, _, rfl⟩ <;>
    simpa [State.sameUnwritten] using htext

theorem exec_condContext_a32 {i : Instr} {s t : State} (hi : s.iset = .a32) (h : exec i s = .next t) :
    t.condContext = s.condContext := by
  rcases exec_cases h with ⟨r, rfl, _⟩ | rfl | ⟨rfl, _⟩ | ⟨_, _, _, _, rfl⟩ <;>
    simp [State.complete_condContext, hi]

theorem exec_freeChoices {i : Instr} {s t : State} (hw : wellFormed i = true) (hu : i.isUndefined = false)
    (h : exec i s = .next t) : t.freeChoices = s.freeChoices := by
  rcases exec_cases h with ⟨r, rfl, _⟩ | rfl | ⟨rfl, hno⟩ | ⟨_, _, _, _, rfl⟩
  case inr.inr.inl => simp [hw, hu] at hno
  all_goals simp

theorem exec_fault {i : Instr} {s t : State} (h : exec i s = .next t) :
    t.fault = s.fault ∨ t.fault = some (.undefined .oddQRegister) ∨
      t.fault = some (.undefined .simdDisabled) ∨ t.fault = some .hypTrap := by
  rcases exec_cases h with ⟨r, rfl, rfl | rfl | rfl⟩ | rfl | ⟨rfl, _⟩ | ⟨_, _, _, _, rfl⟩ <;> simp

theorem exec_regs_of_not_operates {i : Instr} {s t : State} (hno : ¬operates i s) (h : exec i s = .next t) :
    t.regs = s.regs :=
  State.regs_ext fun n => by rw [readD_exec h, if_neg fun hand => hno hand.1]

/-- Settles O26: one lemma for each part of the state. -/
theorem writeSetIsComplete : Obligations.WriteSetIsComplete := by
  refine fun i s t h => ⟨fun n hn => ?_, fun hu => ?_, exec_sameUnwritten h, exec_fault h,
    fun hi => exec_condContext_a32 hi h, fun hw hu => exec_freeChoices hw hu h⟩
  · rw [readD_exec h, if_neg fun hand => hn hand.2]
  · exact exec_regs_of_not_operates (fun ⟨hdef, _⟩ => by simp [hu] at hdef) h

end Sys2Proof.Machine
end

section
/-! What an instruction cannot observe (O27, O48, O50): a relation between states that the operations keep
is kept by every instruction whose two checks answer alike. -/

namespace Sys2Proof.Machine

/-- The operations of the meanings keep `R`, and what they read of two related states is the same. -/
structure KeptByOperations (R : State → State → Prop) : Prop where
  readD {s u : State} : R s u → ∀ n, u.readD n = s.readD n
  params {s u : State} : R s u → u.params = s.params
  freeChoices {s u : State} : R s u → u.freeChoices = s.freeChoices
  writeD {s u : State} : R s u → ∀ n x, R (s.writeD n x) (u.writeD n x)
  raise {s u : State} : R s u → ∀ r, R (s.raise r) (u.raise r)
  complete {s u : State} : R s u → R s.complete u.complete
  completeByChoice {s u : State} : R s u → R s.completeByChoice u.completeByChoice

section
variable {R : State → State → Prop} (hR : KeptByOperations R) {s u : State} (h : R s u)
include hR h

theorem KeptByOperations.clearRegs (m : DWord) (k : Nat) (d : RegNum) :
    R (s.clearRegs m k d) (u.clearRegs m k d) := by
  induction k generalizing d s u with
  | zero => exact h
  | succ k ih =>
    simp only [State.clearRegs, hR.readD h]
    exact ih (hR.writeD h _ _) _

theorem KeptByOperations.clearOperand (q : Bool) (d : RegNum) (cmode : BitVec 4) (imm8 : BitVec 8) :
    R (s.clearOperand q d cmode imm8) (u.clearOperand q d cmode imm8) := by
  simp only [State.clearOperand, State.imm64, hR.params h]
  exact hR.clearRegs h _ _ _

theorem KeptByOperations.oddQConditionFailed : R (oddQConditionFailed s) (oddQConditionFailed u) := by
  unfold Machine.oddQConditionFailed
  rw [hR.params h, hR.freeChoices h]
  cases s.params.undefCondFail with
  | nop => exact hR.complete h
  | undefined => exact hR.raise h _
  | either =>
    cases Config.undefOnFailedCondition s.freeChoices with
    | true => exact hR.raise h _
    | false => exact hR.completeByChoice h

theorem KeptByOperations.vbicEnabledPart (he : u.simdCheck = s.simdCheck) (q : Bool) (d : RegNum)
    (cmode : BitVec 4) (imm8 : BitVec 8) :
    R (vbicEnabledPart q d cmode imm8 s) (vbicEnabledPart q d cmode imm8 u) := by
  unfold Machine.vbicEnabledPart
  rw [he]
  cases s.simdCheck with
  | enabled => exact hR.complete (hR.clearOperand h q d cmode imm8)
  | undefined => exact hR.raise h _
  | hypTrap => exact hR.raise h _

theorem KeptByOperations.oddQRegister (hc : u.conditionPassed = s.conditionPassed) :
    ∃ t v, oddQRegister s = .next t ∧ oddQRegister u = .next v ∧ R t v := by
  refine ⟨_, _, rfl, rfl, ?_⟩
  rw [hc]
  split
  · exact hR.raise h _
  · exact hR.oddQConditionFailed h

theorem KeptByOperations.vbicImmediate (hc : u.conditionPassed = s.conditionPassed)
    (he : u.simdCheck = s.simdCheck) (q : Bool) (d : RegNum) (cmode : BitVec 4) (imm8 : BitVec 8) :
    ∃ t v, vbicImmediate q d cmode imm8 s = .next t ∧ vbicImmediate q d cmode imm8 u = .next v ∧
      R t v := by
  unfold Machine.vbicImmediate
  split
  · exact hR.oddQRegister h hc
  · refine ⟨_, _, rfl, rfl, ?_⟩
    rw [hc]
    split
    · exact hR.vbicEnabledPart h he q d cmode imm8
    · exact hR.complete h

/-- Every instruction keeps the relation. -/
theorem KeptByOperations.exec (hc : u.conditionPassed = s.conditionPassed)
    (he : u.simdCheck = s.simdCheck) {i : Instr} {t : State} (ht : exec i s = .next t) :
    ∃ v, Machine.exec i u = .next v ∧ R t v := by
  have hboth : ∃ t v, Machine.exec i s = .next t ∧ Machine.exec i u = .next v ∧ R t v := by
    cases hu : i.isUndefined with
    | true =>
      rw [exec_undefined hu, exec_undefined hu]
      exact hR.oddQRegister h hc
    | false =>
      rw [exec_vbic hu, exec_vbic hu]
      exact hR.vbicImmediate h hc he _ _ _ _
  obtain ⟨t', v, ht', hv, htv⟩ := hboth
  rw [ht] at ht'
  cases ht'
  exact ⟨v, hv, htv⟩

end

/-! ### The program text and `DIT` -/

theorem keptByOperations_withText (m : Memory) :
    KeptByOperations fun s u => u = { s with text := m } where
  readD := by rintro s _ rfl n; rfl
  params := by rintro s _ rfl; rfl
  freeChoices := by rintro s _ rfl; rfl
  writeD := by rintro s _ rfl n x; rfl
  raise := by rintro s _ rfl r; rfl
  complete := by rintro s _ rfl; cases hi : s.iset <;> simp [State.complete_a32_eq, State.complete_t32_eq, hi]
  completeByChoice := by
    rintro s _ rfl
    cases hi : s.iset <;> simp [State.completeByChoice, State.complete_a32_eq, State.complete_t32_eq, hi]

theorem keptByOperations_withDit (b : Bool) :
    KeptByOperations fun s u => u = { s with dit := b } where
  readD := by rintro s _ rfl n; rfl
  params := by rintro s _ rfl; rfl
  freeChoices := by rintro s _ rfl; rfl
  writeD := by rintro s _ rfl n x; rfl
  raise := by rintro s _ rfl r; rfl
  complete := by rintro s _ rfl; cases hi : s.iset <;> simp [State.complete_a32_eq, State.complete_t32_eq, hi]
  completeByChoice := by
    rintro s _ rfl
    cases hi : s.iset <;> simp [State.completeByChoice, State.complete_a32_eq, State.complete_t32_eq, hi]

/-- Settles O48: no operation and neither check looks at the program text (R30). -/
theorem instructionsNeitherReadNorWriteMemory : Obligations.InstructionsNeitherReadNorWriteMemory := by
  intro i s t m h
  obtain ⟨v, hv, rfl⟩ := (keptByOperations_withText m).exec rfl rfl rfl h
  exact ⟨exec_text h, hv⟩

/-- Settles O50: no operation and neither check looks at `DIT` (R22). -/
theorem ditChangesNoResult : Obligations.DitChangesNoResult := by
  intro i s t b h
  obtain ⟨v, hv, rfl⟩ := (keptByOperations_withDit b).exec rfl rfl rfl h
  obtain ⟨_, _, _, _, hdit, _⟩ := exec_sameUnwritten h
  exact ⟨hdit, hv⟩

/-! ### The program counter -/

/-- The two states differ in `pc` at most. -/
def State.sameButPc (s u : State) : Prop :=
  ∃ p, u = { s with pc := p }

theorem keptByOperations_sameButPc : KeptByOperations State.sameButPc where
  readD := by rintro s _ ⟨p, rfl⟩ n; rfl
  params := by rintro s _ ⟨p, rfl⟩; rfl
  freeChoices := by rintro s _ ⟨p, rfl⟩; rfl
  writeD := by rintro s _ ⟨p, rfl⟩ n x; exact ⟨p, rfl⟩
  raise := by rintro s _ ⟨p, rfl⟩ r; exact ⟨p, rfl⟩
  complete := by
    rintro s _ ⟨p, rfl⟩
    refine ⟨p + 4#32, ?_⟩
    cases hi : s.iset <;> simp [State.complete_a32_eq, State.complete_t32_eq, hi]
  completeByChoice := by
    rintro s _ ⟨p, rfl⟩
    refine ⟨p + 4#32, ?_⟩
    cases hi : s.iset <;> simp [State.completeByChoice, State.complete_a32_eq, State.complete_t32_eq, hi]

/-- Settles O27: `exec_completes_or_raises` for `pc` itself; the operations keep every other part of the
state alike at another address. -/
theorem programCounterMovesByFour : Obligations.ProgramCounterMovesByFour := by
  intro i s t hf h
  refine ⟨fun ht => ?_, fun ht => ?_, fun p hp => ?_⟩
  · rcases exec_completes_or_raises hf h with ⟨_, hpc⟩ | ⟨r, rfl⟩
    · rw [hpc, BitVec.toNat_add]
      rfl
    · simp at ht
  · rcases exec_completes_or_raises hf h with ⟨hnone, _⟩ | ⟨r, rfl⟩
    · exact absurd hnone ht
    · rfl
  · obtain ⟨_, hv, q, rfl⟩ := keptByOperations_sameButPc.exec ⟨p, rfl⟩ rfl hp h
    exact ⟨_, hv, rfl, rfl⟩

end Sys2Proof.Machine
end

section
/-! The step (O6, O39, O44, O46, O47): a step that answers a next state ran one instruction in a state
without a fault, so what instructions keep every step keeps. -/

namespace Sys2Proof.Machine

/-! ### Running a decoded word -/

theorem step_of_fetch {s : State} {w : Word} (hf : s.fault = none) (ha : s.aligned = true)
    (hw : s.fetch = some w) : step s = runDecoded (decode s.iset w) s := by
  simp only [step, hf, ha, hw, if_true]

/-- Settles O39: the step is the meaning of the decoded word. -/
theorem stepRunsTheDecodedInstruction : Obligations.StepRunsTheDecodedInstruction := by
  intro s w i hf ha hw hi
  rw [step_of_fetch hf ha hw, hi, runDecoded]

/-- The "Related encodings" test as the spec lists its values (R49). -/
theorem seeRelated_iff (cmode : BitVec 4) :
    seeRelated cmode = true ↔ cmode.getLsbD 0 = false ∨ cmode = 0b1101#4 ∨ cmode = 0b1111#4 := by
  revert cmode; decide

/-- Settles O6: the decoder refuses by the group's mask first, then by the test on `cmode`. -/
theorem refusedWordsAreRelatedOrNotVBIC : Obligations.RefusedWordsAreRelatedOrNotVBIC := by
  refine ⟨fun iset w => ⟨?_, ?_⟩, fun s w hf ha hw => ⟨fun hd => ?_, fun hd => ?_⟩⟩
  · rw [decode_eq_notVBIC_iff, ← Bool.not_eq_true, inGroup_iff]
  · obtain ⟨_, h8, _⟩ := cells_eq_cmodeField w
    rw [decode_eq_related_iff, inGroup_iff, seeRelated_iff, ← h8, cmodeField]
  · rw [step_of_fetch hf ha hw, hd, runDecoded]
  · rw [step_of_fetch hf ha hw, hd, runDecoded]

/-! ### What every step keeps -/

theorem step_completes_or_raises {s t : State} (h : step s = .next t) :
    (t.fault = none ∧ t.pc = s.pc + 4#32) ∨ ∃ r, t = s.raise r := by
  obtain ⟨hf, _, _, _, _, _, hexec⟩ := step_next h
  exact exec_completes_or_raises hf hexec

/-- `pc + 4` is aligned where `pc` is, at the top of the address space too (R25, R34). -/
theorem State.aligned_of_pc_add_four {s t : State} (hi : t.iset = s.iset) (hpc : t.pc = s.pc + 4#32)
    (ha : s.aligned = true) : t.aligned = true := by
  unfold State.aligned at ha ⊢
  rw [hi, hpc, BitVec.toNat_add]
  cases hs : s.iset with
  | a32 =>
    simp only [hs, beq_iff_eq] at ha ⊢
    change (s.pc.toNat + 4) % 2 ^ 32 % 4 = 0
    omega
  | t32 =>
    simp only [hs, beq_iff_eq] at ha ⊢
    change (s.pc.toNat + 4) % 2 ^ 32 % 2 = 0
    omega

/-- Settles O44: the text is not written, and `pc` stays or moves by 4. -/
theorem stepKeepsTextCanonicalAndPcAligned : Obligations.StepKeepsTextCanonicalAndPcAligned := by
  rintro s t ⟨hwf, ha⟩ h
  obtain ⟨_, _, _, _, _, _, hexec⟩ := step_next h
  refine ⟨by rw [exec_text hexec]; exact hwf, ?_⟩
  rcases step_completes_or_raises h with ⟨_, hpc⟩ | ⟨r, rfl⟩
  · obtain ⟨_, _, _, _, _, _, _, _, _, _, hi, _⟩ := exec_sameUnwritten hexec
    exact State.aligned_of_pc_add_four hi hpc ha
  · exact ha

/-- Settles O45: the text is empty and `pc` is 0. -/
theorem resetMeetsTheInvariantWithoutFault : Obligations.ResetMeetsTheInvariantWithoutFault :=
  ⟨⟨reset_text_wf, rfl⟩, rfl⟩

/-- "The result never has a 1 bit where `x` had a 0". -/
theorem getLsbD_of_getLsbD_bitClear {x m : DWord} {k : Nat} (h : (bitClear x m).getLsbD k = true) :
    x.getLsbD k = true := by
  rw [bitClear, BitVec.getLsbD_and, Bool.and_eq_true] at h
  exact h.1

/-- Settles O46: a step leaves a register as it was or clears bits of it (`readD_exec`). -/
theorem stepNeverSetsARegisterBit : Obligations.StepNeverSetsARegisterBit := by
  intro s t h n k hbit
  obtain ⟨_, _, _, _, _, _, hexec⟩ := step_next h
  rw [readD_exec hexec] at hbit
  split at hbit
  · exact getLsbD_of_getLsbD_bitClear hbit
  · exact hbit

/-- Settles O47: a step that does not complete raises, and a raise writes the record alone. -/
theorem stepLeavesUnwrittenStateAlone : Obligations.StepLeavesUnwrittenStateAlone := by
  intro s t h
  obtain ⟨_, _, _, _, _, _, hexec⟩ := step_next h
  refine ⟨exec_sameUnwritten hexec, exec_text hexec, ?_⟩
  rcases step_completes_or_raises h with ⟨hf, hpc⟩ | ⟨r, rfl⟩
  · exact .inl ⟨hpc, hf⟩
  · exact .inr ⟨rfl, by simp, rfl⟩

end Sys2Proof.Machine
end

section
/-! Fetch and loading (O40 to O43): the four bytes at `pc`, what `P_FETCH` makes of them (R6, R32, R33),
and the word that is stored there (log 2). -/

namespace Sys2Proof.Machine

/-! ### The four bytes -/

theorem State.fetch_ne_none_iff (s : State) :
    s.fetch ≠ none ↔ ∀ k < 4, s.textByte (s.pc + BitVec.ofNat 32 k) ≠ none := by
  constructor
  · intro h k hk
    obtain ⟨w, hw⟩ := Option.ne_none_iff_exists'.1 h
    obtain ⟨b0, b1, b2, b3, h0, h1, h2, h3, _⟩ := (s.fetch_eq_some_iff w).1 hw
    interval_cases k
    · simp [h0]
    · simp [h1]
    · simp [h2]
    · simp [h3]
  · intro h
    obtain ⟨b0, h0⟩ := Option.ne_none_iff_exists'.1 (h 0 (by decide))
    obtain ⟨b1, h1⟩ := Option.ne_none_iff_exists'.1 (h 1 (by decide))
    obtain ⟨b2, h2⟩ := Option.ne_none_iff_exists'.1 (h 2 (by decide))
    obtain ⟨b3, h3⟩ := Option.ne_none_iff_exists'.1 (h 3 (by decide))
    have hw := (s.fetch_eq_some_iff _).2 ⟨b0, b1, b2, b3, by simpa using h0, h1, h2, h3, rfl⟩
    simp [hw]

theorem State.not_aligned_a32 {s : State} (hi : s.iset = .a32) (h : s.pc.toNat % 4 ≠ 0) :
    s.aligned = false := by
  simpa [State.aligned, hi] using h

theorem State.not_aligned_t32 {s : State} (hi : s.iset = .t32) (h : s.pc.toNat % 2 ≠ 0) :
    s.aligned = false := by
  simpa [State.aligned, hi] using h

theorem step_of_not_aligned {s : State} (hf : s.fault = none) (ha : s.aligned = false) :
    step s = .refused .misalignedPc := by
  simp [step, hf, ha]

theorem step_of_no_fetch {s : State} (hf : s.fault = none) (ha : s.aligned = true) (hw : s.fetch = none) :
    step s = .refused .noText := by
  simp [step, hf, ha, hw]

/-- Settles O40: alignment is looked at before the text, and a fetch needs all four bytes. -/
theorem stepRefusesWhereNoInstructionIs : Obligations.StepRefusesWhereNoInstructionIs := by
  refine fun s hf => ⟨fun hi h => ?_, fun hi h => ?_, fun ha k hk hbyte => ?_⟩
  · exact step_of_not_aligned hf (State.not_aligned_a32 hi h)
  · exact step_of_not_aligned hf (State.not_aligned_t32 hi h)
  · refine step_of_no_fetch hf ha ?_
    by_contra hfetch
    exact (s.fetch_ne_none_iff.1 hfetch) k hk hbyte

/-- The bytes of a word laid out for A32 (R32). -/
theorem wordOfBytes_a32_bytes (b0 b1 b2 b3 : Byte) :
    (wordOfBytes .a32 b0 b1 b2 b3).extractLsb' 0 8 = b0 ∧
    (wordOfBytes .a32 b0 b1 b2 b3).extractLsb' 8 8 = b1 ∧
    (wordOfBytes .a32 b0 b1 b2 b3).extractLsb' 16 8 = b2 ∧
    (wordOfBytes .a32 b0 b1 b2 b3).extractLsb' 24 8 = b3 := by
  refine ⟨?_, ?_, ?_, ?_⟩ <;>
    simp (disch := decide) only [wordOfBytes, BitVec.setWidth_eq, BitVec.extractLsb'_eq_self,
      BitVec.extractLsb'_append_eq_of_add_le, BitVec.extractLsb'_append_eq_of_le, Nat.reduceSub]

/-- The bytes of a word laid out for T32 (R33). -/
theorem wordOfBytes_t32_bytes (b0 b1 b2 b3 : Byte) :
    (wordOfBytes .t32 b0 b1 b2 b3).extractLsb' 16 8 = b0 ∧
    (wordOfBytes .t32 b0 b1 b2 b3).extractLsb' 24 8 = b1 ∧
    (wordOfBytes .t32 b0 b1 b2 b3).extractLsb' 0 8 = b2 ∧
    (wordOfBytes .t32 b0 b1 b2 b3).extractLsb' 8 8 = b3 := by
  refine ⟨?_, ?_, ?_, ?_⟩ <;>
    simp (disch := decide) only [wordOfBytes, BitVec.setWidth_eq, BitVec.extractLsb'_eq_self,
      BitVec.extractLsb'_append_eq_of_add_le, BitVec.extractLsb'_append_eq_of_le, Nat.reduceSub]

/-- Settles O41: the fetched word is the default layout of the four bytes. -/
theorem fetchIsLittleEndian : Obligations.FetchIsLittleEndian := by
  intro s b0 b1 b2 b3 hp h0 h1 h2 h3
  have hw : s.fetch = some (wordOfBytes s.iset b0 b1 b2 b3) :=
    (s.fetch_eq_some_iff _).2 ⟨b0, b1, b2, b3, h0, h1, h2, h3, hp _ _ _ _ _⟩
  refine ⟨_, hw, fun hi => ?_, fun hi => ?_⟩
  · rw [hi]
    exact wordOfBytes_a32_bytes b0 b1 b2 b3
  · rw [hi]
    exact wordOfBytes_t32_bytes b0 b1 b2 b3

/-! ### `P_FETCH` as a parameter -/

/-- A table made from a function answers it at every key it was made for. -/
theorem lookupOr_map {α κ ν : Type} [DecidableEq κ] (key : α → κ) (f : κ → ν) (as : List α) {a : α}
    (ha : a ∈ as) (x : ν) : lookupOr (as.map fun b => (key b, f (key b))) (key a) x = f (key a) := by
  induction as with
  | nil => cases ha
  | cons b rest ih =>
    rw [List.map_cons, lookupOr]
    split
    · rename_i hk
      rw [hk]
    · rename_i hk
      refine ih ((List.mem_cons.1 ha).resolve_left ?_)
      rintro rfl
      exact hk rfl

/-- A function of the text, `pc` and instruction set as a function of `P_FETCH`'s arguments (R6). -/
def ofFetchInputs (pFetch : Memory → Addr → ISet → Word) (inputs : FetchInputs) : Word :=
  pFetch inputs.text inputs.pc inputs.iset

/-- The rows of such a function at the arguments it has in the states of a list. -/
def fetchRowsFor (pFetch : Memory → Addr → ISet → Word) (states : List State) : List (FetchInputs × Word) :=
  states.map fun s => (s.fetchInputs, ofFetchInputs pFetch s.fetchInputs)

theorem fetchWord_fetchRowsFor (pFetch : Memory → Addr → ISet → Word) {states : List State} {s : State}
    (hs : s ∈ states) (p : Params) (b0 b1 b2 b3 : Byte) :
    fetchWord { p with fetchRows := fetchRowsFor pFetch states } s.fetchInputs b0 b1 b2 b3 =
      pFetch s.text s.pc s.iset :=
  lookupOr_map State.fetchInputs (ofFetchInputs pFetch) states hs _

/-- Settles O42: a fetch looks at the four bytes and at `P_FETCH`'s arguments alone, and `fetchRowsFor` gives
any function of these. -/
theorem fetchIsAnyFunctionOfTextPcAndIset : Obligations.FetchIsAnyFunctionOfTextPcAndIset := by
  refine ⟨State.fetch_ne_none_iff, fun s t hp ht hpc hi => ?_,
    fun pFetch states => ⟨fetchRowsFor pFetch states, fun s hs hfetch => ?_⟩⟩
  · simp only [State.fetch, State.textByte, State.fetchInputs, hp, ht, hpc, hi]
  · obtain ⟨w, hw⟩ := Option.ne_none_iff_exists'.1 hfetch
    obtain ⟨b0, b1, b2, b3, h0, h1, h2, h3, _⟩ := (s.fetch_eq_some_iff w).1 hw
    exact (State.fetch_eq_some_iff _ _).2 ⟨b0, b1, b2, b3, h0, h1, h2, h3,
      fetchWord_fetchRowsFor pFetch hs s.params b0 b1 b2 b3⟩

/-! ### Loading one instruction -/

/-- The bytes of an instruction laid out and read back. -/
theorem wordOfBytes_wordByte (iset : ISet) (w : Word) :
    wordOfBytes iset (wordByte iset w 0) (wordByte iset w 1) (wordByte iset w 2) (wordByte iset w 3) =
      w := by
  refine BitVec.eq_of_getLsbD_eq fun k hk => ?_
  cases iset with
  | a32 =>
    simp only [wordOfBytes, wordByte, BitVec.getLsbD_setWidth, BitVec.getLsbD_append,
      BitVec.getLsbD_extractLsb']
    interval_cases k <;> simp
  | t32 =>
    simp only [wordOfBytes, wordByte, BitVec.getLsbD_setWidth, BitVec.getLsbD_append,
      BitVec.getLsbD_extractLsb']
    interval_cases k <;> simp

/-- The four bytes of a stored instruction are read back. -/
theorem storeWord_read (iset : ISet) (w : Word) (a : Addr) (m : Memory) :
    (storeWord iset w a m).read a.toNat = some (wordByte iset w 0) ∧
    (storeWord iset w a m).read (a + 1#32).toNat = some (wordByte iset w 1) ∧
    (storeWord iset w a m).read (a + 2#32).toNat = some (wordByte iset w 2) ∧
    (storeWord iset w a m).read (a + 3#32).toNat = some (wordByte iset w 3) := by
  have h01 : a.toNat ≠ (a + 1#32).toNat := by bv_omega
  have h02 : a.toNat ≠ (a + 2#32).toNat := by bv_omega
  have h03 : a.toNat ≠ (a + 3#32).toNat := by bv_omega
  have h12 : (a + 1#32).toNat ≠ (a + 2#32).toNat := by bv_omega
  have h13 : (a + 1#32).toNat ≠ (a + 3#32).toNat := by bv_omega
  have h23 : (a + 2#32).toNat ≠ (a + 3#32).toNat := by bv_omega
  refine ⟨?_, ?_, ?_, ?_⟩
  · rw [storeWord, Memory.read_write_other _ _ _ _ h03, Memory.read_write_other _ _ _ _ h02,
      Memory.read_write_other _ _ _ _ h01, Memory.read_write_same]
  · rw [storeWord, Memory.read_write_other _ _ _ _ h13, Memory.read_write_other _ _ _ _ h12,
      Memory.read_write_same]
  · rw [storeWord, Memory.read_write_other _ _ _ _ h23, Memory.read_write_same]
  · rw [storeWord, Memory.read_write_same]

/-- The loaded word is the one that is fetched next. -/
theorem State.fetch_loadWord (s : State) (w : Word) : (s.loadWord w).fetch = some w := by
  obtain ⟨h0, h1, h2, h3⟩ := storeWord_read ((isetOfWord w).getD s.iset) w s.pc s.text
  refine (State.fetch_eq_some_iff _ _).2 ⟨_, _, _, _, h0, h1, h2, h3, ?_⟩
  rw [State.loadWord_params, fetchWord_defaultFetchAt_same]
  exact wordOfBytes_wordByte _ w

theorem isetOfWord_eq_some {iset : ISet} {w : Word} (h : inGroup iset w = true) :
    isetOfWord w = some iset := by
  cases iset with
  | a32 => simp [isetOfWord, h]
  | t32 =>
    have ha : inGroup .a32 w = false := by
      simpa using fun ha => not_inGroup_both w ⟨ha, h⟩
    simp [isetOfWord, h, ha]

theorem tableWord_toNat (w : Word) : tableWord 32 w.toNat = w := by
  rw [tableWord, Nat.mod_eq_of_lt w.isLt, BitVec.ofNat_toNat, BitVec.setWidth_eq]

theorem State.aligned_of {s : State} (ha : s.iset = .a32 → s.pc.toNat % 4 = 0)
    (ht : s.iset = .t32 → s.pc.toNat % 2 = 0) : s.aligned = true := by
  cases hi : s.iset with
  | a32 => simpa [State.aligned, hi] using ha hi
  | t32 => simpa [State.aligned, hi] using ht hi

/-- Settles O43: the loaded word is fetched (`State.fetch_loadWord`) and decodes to its instruction
(`decode_encode`); loading writes nothing else. -/
theorem loadedInstructionIsRunNext : Obligations.LoadedInstructionIsRunNext := by
  intro i s hw hf ha ht
  have hload : s.withFetchWord 32 (encode i).toNat = s.loadWord (encode i) := by
    rw [State.withFetchWord, tableWord_toNat]
  have hiset : (s.loadWord (encode i)).iset = i.iset := by
    rw [State.loadWord_iset, isetOfWord_eq_some (inGroup_encode i)]
    rfl
  have hfault : (s.loadWord (encode i)).fault = none := hf
  have haligned : (s.loadWord (encode i)).aligned = true :=
    State.aligned_of (fun h => ha (hiset ▸ h)) (fun h => ht (hiset ▸ h))
  rw [hload]
  refine ⟨?_, hiset, fun n => rfl, fun a hmem => ?_, rfl, fun k b0 b1 b2 b3 hk => ?_⟩
  · rw [step_of_fetch hfault haligned (s.fetch_loadWord _), hiset, decode_encode hw, runDecoded]
  · simp only [List.mem_cons, List.not_mem_nil, or_false, not_or, BitVec.toNat_eq] at hmem
    obtain ⟨h0, h1, h2, h3⟩ := hmem
    exact storeWord_read_other _ _ _ _ _ h0 h1 h2 h3
  · exact fetchWord_defaultFetchAt_other _ _ _ _ _ _ _ hk

end Sys2Proof.Machine
end

section
/-! The two checks (O17, O51): the condition is any function of the flags (R60, D7), the enable check any
function of its named inputs (R62, D8). -/

namespace Sys2Proof.Machine

/-- A condition over the flags as the truth table that `State.conditionPassed` reads. -/
def truthTable (cond : Bool → Bool → Bool → Bool → Bool) : BitVec 16 :=
  BitVec.ofFnLE fun k : Fin 16 =>
    cond (k.val.testBit 3) (k.val.testBit 2) (k.val.testBit 1) (k.val.testBit 0)

/-- The place of the flags in a truth table has them as its bits. -/
theorem State.flagsIndex_bits (s : State) :
    s.flagsIndex < 16 ∧ s.flagsIndex.testBit 3 = s.n ∧ s.flagsIndex.testBit 2 = s.z ∧
      s.flagsIndex.testBit 1 = s.c ∧ s.flagsIndex.testBit 0 = s.v := by
  unfold State.flagsIndex
  generalize s.n = n, s.z = z, s.c = c, s.v = v
  revert n z c v
  decide

theorem getLsbD_truthTable (cond : Bool → Bool → Bool → Bool → Bool) (s : State) :
    (truthTable cond).getLsbD s.flagsIndex = cond s.n s.z s.c s.v := by
  obtain ⟨hlt, hn, hz, hc, hv⟩ := s.flagsIndex_bits
  rw [truthTable, BitVec.getLsbD_ofFnLE, dif_pos hlt, hn, hz, hc, hv]

/-- Settles O17: the truth table of a condition passes where the condition holds. -/
theorem conditionIsAlwaysTrueInA32AndFreeInT32 : Obligations.ConditionIsAlwaysTrueInA32AndFreeInT32 := by
  refine ⟨fun s hi => State.conditionPassed_a32 hi, fun cond => ⟨truthTable cond, fun s hi => ?_⟩⟩
  rw [← getLsbD_truthTable cond s]
  simp only [State.conditionPassed, hi]
  rfl

/-- Settles O51: the check looks up its inputs, and a table of one row gives any answer. -/
theorem simdCheckReadsOnlyItsNamedInputs : Obligations.SimdCheckReadsOnlyItsNamedInputs := by
  refine ⟨fun s t hp hcpacr hnsacr hhcptr hss hpm hpc => ?_, fun s answer => ?_⟩
  · simp only [State.simdCheck, State.simdInputs, hp, hcpacr, hnsacr, hhcptr, hss, hpm, hpc]
  · refine ⟨[(s.simdInputs, answer s.simdInputs)], ?_⟩
    exact lookupOr_map id answer [s.simdInputs] (List.mem_singleton.2 rfl) _

end Sys2Proof.Machine
end

section
/-! The registers and `x AND NOT(m)` (O30 to O34): laws of the accessor and of the operation, and what two
instructions do one after the other (R16, R17, R72). -/

namespace Sys2Proof.Machine

/-! ### One operation after another -/

theorem State.writeD_writeD_same (s : State) (k : RegNum) (x y : DWord) :
    (s.writeD k x).writeD k y = s.writeD k y := by
  simp [State.writeD]

/-- Settles O30: one law of the accessor for each clause. -/
theorem registerReadsLastWrite : Obligations.RegisterReadsLastWrite :=
  fun s k n x y => ⟨s.readD_writeD_same k x, s.readD_writeD_ne k n x, s.writeD_writeD_same k x y⟩

theorem bitClear_bitClear (x m₁ m₂ : DWord) : bitClear (bitClear x m₁) m₂ = bitClear x (m₁ ||| m₂) := by
  rw [bitClear, bitClear, bitClear, BitVec.and_assoc, BitVec.not_or]

/-- Settles O32: the composition by `bitClear_bitClear`, the rest bit by bit. -/
theorem bitClearLaws : Obligations.BitClearLaws := by
  intro x m m1 m2
  refine ⟨?_, ?_, ?_, bitClear_bitClear x m1 m2, ?_, ?_, ?_, fun k hk hx => ?_⟩
  · rw [bitClear, BitVec.not_zero, BitVec.and_allOnes]
  · rw [bitClear, BitVec.not_allOnes, BitVec.and_zero]
  · rw [bitClear_bitClear, BitVec.or_self]
  · rw [bitClear_bitClear, BitVec.or_comm]
  · rw [bitClear, BitVec.and_assoc, BitVec.not_and_self]
    exact BitVec.and_zero
  · rw [bitClear, ← BitVec.and_or_distrib_left, BitVec.or_comm, BitVec.or_not_self, BitVec.and_allOnes]
  · rw [getLsbD_bitClear x m hk, hx, ite_self]

theorem State.complete_writeD (s : State) (k : RegNum) (x : DWord) :
    s.complete.writeD k x = (s.writeD k x).complete := by
  cases hi : s.iset <;> simp [State.complete_a32_eq, State.complete_t32_eq, hi, State.writeD]

theorem exec_keeps_recorded_fault {i : Instr} {s t : State} (h : exec i s = .next t) (ht : t.fault = none) :
    s.fault = none := by
  obtain ⟨_, hkeeps, _⟩ := faultRecordIsNeverCleared
  by_contra hs
  exact hkeeps i s t hs h ht

/-- A form that admits its register number, its condition passed, faults unless it clears its operand. -/
theorem vbicImmediate_of_no_fault {q : Bool} {d : RegNum} {cmode : BitVec 4} {imm8 : BitVec 8}
    {s t : State} (hadmits : (q && !isEvenReg d) = false) (hc : s.conditionPassed = true)
    (h : vbicImmediate q d cmode imm8 s = .next t) (ht : t.fault = none) :
    t = (s.clearOperand q d cmode imm8).complete := by
  rcases vbicImmediate_cases hadmits h with ⟨_, _, rfl⟩ | ⟨_, _, rfl⟩ | ⟨_, _, rfl⟩ | ⟨hfailed, _⟩
  · rfl
  · cases ht
  · cases ht
  · rw [hc] at hfailed
    cases hfailed

/-- A 64-bit form clears its register, unless it faults. -/
theorem exec_double_of_no_fault {i : Instr} {s t : State} (hq : i.isQ = false)
    (hc : s.conditionPassed = true) (h : exec i s = .next t) (ht : t.fault = none) :
    t = (s.writeD i.reg (bitClear (s.readD i.reg) (s.imm64 i.cmode i.imm8))).complete := by
  have hu : i.isUndefined = false := by
    by_contra hu
    rw [isQ_of_isUndefined (by simpa using hu)] at hq
    cases hq
  rw [exec_vbic hu, hq] at h
  exact vbicImmediate_of_no_fault rfl hc h ht

/-- Two 64-bit instructions on one register, neither of which faults: the ORed immediates are cleared. -/
theorem exec_double_twice {i j : Instr} {s s₁ s₂ : State} (hiq : i.isQ = false) (hjq : j.isQ = false)
    (hreg : i.reg = j.reg) (hc : s.conditionPassed = true) (hc₁ : s₁.conditionPassed = true)
    (h₁ : exec i s = .next s₁) (h₂ : exec j s₁ = .next s₂) (hf : s₂.fault = none) :
    s₂ = (s.writeD i.reg (bitClear (s.readD i.reg)
      (s.imm64 i.cmode i.imm8 ||| s.imm64 j.cmode j.imm8))).complete.complete := by
  have hs₂ := exec_double_of_no_fault hjq hc₁ h₂ hf
  have hs₁ := exec_double_of_no_fault hiq hc h₁ (exec_keeps_recorded_fault h₂ hf)
  rw [hs₁, ← hreg, State.complete_writeD, State.writeD_writeD_same, State.readD_complete,
    State.readD_writeD_same, bitClear_bitClear] at hs₂
  simpa [State.imm64] using hs₂

/-- Settles O33: `exec_double_twice` in either order, since `|||` is commutative. -/
theorem twoVbicsOnOneRegisterCommuteAndMerge : Obligations.TwoVbicsOnOneRegisterCommuteAndMerge := by
  intro i j s s1 s2 t1 t2 hiq hjq hreg _ hc hc1 hct1 h1 h2 hf2 ht1 ht2 hft2
  have hs2 := exec_double_twice hiq hjq hreg hc hc1 h1 h2 hf2
  have ht2 := exec_double_twice hjq hiq hreg.symm hc hct1 ht1 ht2 hft2
  rw [← hreg, BitVec.or_comm] at ht2
  exact ⟨hs2.trans ht2.symm, by rw [hs2]; simp⟩

/-- The meaning of a 128-bit form and those of the two 64-bit forms on its registers, none of which faults:
both write the same two values. -/
theorem vbicImmediate_quad_eq_two_doubles {d : RegNum} {cmode : BitVec 4} {imm8 : BitVec 8}
    {s q t u : State} (heven : isEvenReg d = true) (hc : s.conditionPassed = true)
    (hct : t.conditionPassed = true) (hqf : q.fault = none) (htf : t.fault = none) (huf : u.fault = none)
    (hq : vbicImmediate true d cmode imm8 s = .next q) (ht : vbicImmediate false d cmode imm8 s = .next t)
    (hu : vbicImmediate false (d + 1#5) cmode imm8 t = .next u) : u.regs = q.regs := by
  rw [vbicImmediate_of_no_fault (quad_admits heven) hc hq hqf,
    vbicImmediate_of_no_fault rfl hct hu huf, vbicImmediate_of_no_fault rfl hc ht htf]
  simp [State.clearOperand_quad, State.clearOperand_double, State.imm64,
    State.readD_writeD_ne _ _ _ _ (even_succ_ne d)]

/-- Settles O34: each class runs the shared operation. -/
theorem quadFormEqualsTwoDoubleForms : Obligations.QuadFormEqualsTwoDoubleForms := by
  intro d cmode imm8 s q t u _ heven hc hct hqf huf
  refine ⟨fun hq ht hu => ?_, fun hq ht hu => ?_, fun hq ht hu => ?_, fun hq ht hu => ?_⟩
  all_goals
    have htf := exec_keeps_recorded_fault hu huf
    exact vbicImmediate_quad_eq_two_doubles heven hc hct hqf htf huf hq ht hu

/-! ### `Qn` and its two halves (R17, R81) -/

theorem lowerHalf_upperHalf (n : BitVec 4) :
    (lowerHalf n).toNat = 2 * n.toNat ∧ (upperHalf n).toNat = 2 * n.toNat + 1 ∧
      upperHalf n = lowerHalf n + 1#5 ∧ upperHalf n ≠ lowerHalf n ∧
      isEvenReg (lowerHalf n) = true ∧ isEvenReg (upperHalf n) = false := by
  revert n; decide

/-- `AND NOT` on `Qn`, half by half. -/
theorem append_bitClear (x₁ x₀ m₁ m₀ : DWord) :
    ((bitClear x₁ m₁ ++ bitClear x₀ m₀ : BitVec (64 + 64)).setWidth 128) =
      (x₁ ++ x₀ : BitVec (64 + 64)).setWidth 128 &&& ~~~((m₁ ++ m₀ : BitVec (64 + 64)).setWidth 128) := by
  have h : (x₁ &&& ~~~m₁) ++ (x₀ &&& ~~~m₀) = (x₁ ++ x₀) &&& ~~~(m₁ ++ m₀) := by
    rw [BitVec.not_append, BitVec.and_append]
  simp only [BitVec.setWidth_eq, bitClear]
  exact h

/-- Settles O31: `readD_exec` at each half; a half outside the operand is cleared of nothing. -/
theorem quadRegisterIsItsTwoDoubles : Obligations.QuadRegisterIsItsTwoDoubles := by
  intro n
  obtain ⟨hlow, hup, hsucc, hne, _, hodd⟩ := lowerHalf_upperHalf n
  refine ⟨hlow, hup, fun i s hw hu hc he hreg => ?_⟩
  obtain ⟨t, ht⟩ := exec_answers_next i s
  have hop : operates i s := ⟨hu, wellFormed_reg hw hu, hc, he⟩
  have hzero (x : DWord) : bitClear x 0#64 = x := (bitClearLaws x 0 0 0).1
  refine ⟨t, ht, ?_⟩
  rw [State.readQ, State.readQ, readD_exec ht, readD_exec ht]
  rcases Bool.eq_false_or_eq_true i.isQ with hq | hq
  · have hlower : i.reg = lowerHalf n := hreg.resolve_right fun h => by
      have hadmits := wellFormed_reg hw hu
      rw [hq, h, hodd] at hadmits
      cases hadmits
    have hin : inOperand i (upperHalf n) := .inr ⟨hq, by rw [hlower, hsucc]⟩
    rw [if_pos ⟨hop, hin⟩, if_pos ⟨hop, .inl hlower.symm⟩, append_bitClear, if_pos hq]
  · rw [if_neg (c := i.isQ = true) (by simp [hq])]
    rcases hreg with hlower | hupper
    · have hout : ¬inOperand i (upperHalf n) := by simp [inOperand, hq, hlower, hne]
      rw [if_neg fun hand => hout hand.2, if_pos ⟨hop, .inl hlower.symm⟩, if_pos hlower,
        ← append_bitClear, hzero]
    · have hout : ¬inOperand i (lowerHalf n) := by simp [inOperand, hq, hupper, hne.symm]
      rw [if_pos ⟨hop, .inl hupper.symm⟩, if_neg fun hand => hout hand.2,
        if_neg (by rw [hupper]; exact hne), ← append_bitClear, hzero]

end Sys2Proof.Machine
end

section
/-! The expanded immediate (O35 to O38): one constant in every lane for every `P_EXPAND`, and the shifted
byte of the default (R57, R73, R74). -/

namespace Sys2Proof.Machine

/-! ### What every `P_EXPAND` gives -/

theorem not_isClass1_of_isClass2 {cmode : BitVec 4} (h : isClass2 cmode = true) :
    isClass1 cmode = false := by
  revert cmode; decide

section
variable (p : Params) {cmode : BitVec 4} (imm8 : BitVec 8)

/-- A class 1 `cmode` expands to a 32-bit constant twice (EXPAND_REPL32). -/
theorem expand_class1 (h : isClass1 cmode = true) :
    advSIMDExpandImm p 1#1 cmode imm8 =
      (lookupOr p.expand32 (cmode, imm8) (defaultElement32 cmode imm8) ++
        lookupOr p.expand32 (cmode, imm8) (defaultElement32 cmode imm8)).setWidth 64 := by
  simp only [advSIMDExpandImm, h, decide_true, Bool.and_self, if_true]

/-- A class 2 `cmode` expands to a 16-bit constant four times (EXPAND_REPL16). -/
theorem expand_class2 (h : isClass2 cmode = true) :
    advSIMDExpandImm p 1#1 cmode imm8 =
      (lookupOr p.expand16 (cmode, imm8) (defaultElement16 cmode imm8) ++
        lookupOr p.expand16 (cmode, imm8) (defaultElement16 cmode imm8) ++
        lookupOr p.expand16 (cmode, imm8) (defaultElement16 cmode imm8) ++
        lookupOr p.expand16 (cmode, imm8) (defaultElement16 cmode imm8)).setWidth 64 := by
  simp only [advSIMDExpandImm, h, not_isClass1_of_isClass2 h, decide_true, Bool.and_self, Bool.and_false,
    Bool.false_eq_true, if_true, if_false]

end

theorem lane_of_two (e : BitVec 32) {lane : Nat} (h : lane < 2) :
    ((e ++ e).setWidth 64).extractLsb' (32 * lane) 32 = e := by
  interval_cases lane <;>
    simp (disch := decide) only [BitVec.setWidth_eq, BitVec.extractLsb'_eq_self,
      BitVec.extractLsb'_append_eq_of_add_le, BitVec.extractLsb'_append_eq_of_le, Nat.reduceSub,
      Nat.reduceMul]

theorem lane_of_four (e : BitVec 16) {lane : Nat} (h : lane < 4) :
    ((e ++ e ++ e ++ e).setWidth 64).extractLsb' (16 * lane) 16 = e := by
  interval_cases lane <;>
    simp (disch := decide) only [BitVec.setWidth_eq, BitVec.extractLsb'_eq_self,
      BitVec.extractLsb'_append_eq_of_add_le, BitVec.extractLsb'_append_eq_of_le, Nat.reduceSub,
      Nat.reduceMul]

/-- Every 32-bit lane of a class 1 immediate is the same. -/
theorem expand_class1_lane (p : Params) {cmode : BitVec 4} (imm8 : BitVec 8) (h : isClass1 cmode = true)
    {lane : Nat} (hl : lane < 2) : (advSIMDExpandImm p 1#1 cmode imm8).extractLsb' (32 * lane) 32 =
      lookupOr p.expand32 (cmode, imm8) (defaultElement32 cmode imm8) := by
  rw [expand_class1 p imm8 h, lane_of_two _ hl]

/-- Every 16-bit lane of a class 2 immediate is the same. -/
theorem expand_class2_lane (p : Params) {cmode : BitVec 4} (imm8 : BitVec 8) (h : isClass2 cmode = true)
    {lane : Nat} (hl : lane < 4) : (advSIMDExpandImm p 1#1 cmode imm8).extractLsb' (16 * lane) 16 =
      lookupOr p.expand16 (cmode, imm8) (defaultElement16 cmode imm8) := by
  rw [expand_class2 p imm8 h, lane_of_four _ hl]

/-- Settles O36: any two lanes hold the one constant. -/
theorem expandedImmediateIsReplicated : Obligations.ExpandedImmediateIsReplicated := by
  refine fun p cmode imm8 => ⟨fun h => ?_, fun h quarter hq => ?_⟩
  · exact (expand_class1_lane p imm8 h (lane := 1) (by decide)).trans
      (expand_class1_lane p imm8 h (lane := 0) (by decide)).symm
  · exact (expand_class2_lane p imm8 h hq).trans
      (expand_class2_lane p imm8 h (lane := 0) (by decide)).symm

/-! ### The lanes of a register (R73) -/

theorem extractLsb'_bitClear (x m : DWord) {k n : Nat} (h : k + n ≤ 64) :
    (bitClear x m).extractLsb' k n = x.extractLsb' k n &&& ~~~(m.extractLsb' k n) := by
  refine BitVec.eq_of_getLsbD_eq fun j hj => ?_
  have hkj : k + j < 64 := by omega
  simp [bitClear, hj, hkj]

/-- Settles O35: `readD_exec` on the operand, lane by lane. -/
theorem lanesAreClearedAlike : Obligations.LanesAreClearedAlike := by
  intro i s hw hu hc he
  obtain ⟨t, ht⟩ := exec_answers_next i s
  have hread {n : RegNum} (hn : inOperand i n) :
      t.readD n = bitClear (s.readD n) (s.imm64 i.cmode i.imm8) := by
    rw [readD_exec ht, if_pos ⟨⟨hu, wellFormed_reg hw hu, hc, he⟩, hn⟩]
  refine ⟨t, ht,
    fun hclass => ⟨lookupOr s.params.expand32 (i.cmode, i.imm8) (defaultElement32 i.cmode i.imm8), ?_⟩,
    fun hclass => ⟨lookupOr s.params.expand16 (i.cmode, i.imm8) (defaultElement16 i.cmode i.imm8), ?_⟩⟩
  all_goals intro n hn lane hl
  · rw [hread hn, extractLsb'_bitClear _ _ (by omega), State.imm64,
      expand_class1_lane _ _ (wellFormed_isClass1 hw hclass) hl]
  · rw [hread hn, extractLsb'_bitClear _ _ (by omega), State.imm64,
      expand_class2_lane _ _ (wellFormed_isClass2 hw hclass) hl]

/-! ### The default (R57; PRESUMED, log 4) -/

theorem getLsbD_of_lane {x : DWord} {n lane k : Nat} {e : BitVec n} (h : x.extractLsb' (n * lane) n = e)
    (hk : k < n) : x.getLsbD (n * lane + k) = e.getLsbD k := by
  rw [← h, BitVec.getLsbD_extractLsb', decide_eq_true hk, Bool.true_and]

theorem getLsbD_defaultElement32 (imm8 : BitVec 8) {j k : Nat} (hj : j < 4) (hk : k < 32) :
    (defaultElement32 (BitVec.ofNat 4 (2 * j + 1)) imm8).getLsbD k =
      (decide (8 * j ≤ k ∧ k < 8 * j + 8) && imm8.getLsbD (k - 8 * j)) := by
  interval_cases j <;>
    simp (decide := true) only [defaultElement32, if_true, if_false, BitVec.getLsbD_setWidth,
      BitVec.getLsbD_append] <;>
    interval_cases k <;> simp

theorem getLsbD_defaultElement16 (imm8 : BitVec 8) {j k : Nat} (hj : j < 2) (hk : k < 16) :
    (defaultElement16 (BitVec.ofNat 4 (2 * j + 9)) imm8).getLsbD k =
      (decide (8 * j ≤ k ∧ k < 8 * j + 8) && imm8.getLsbD (k - 8 * j)) := by
  interval_cases j <;>
    simp (decide := true) only [defaultElement16, if_true, if_false, BitVec.getLsbD_setWidth,
      BitVec.getLsbD_append] <;>
    interval_cases k <;> simp

theorem isClass1_ofNat {j : Nat} (hj : j < 4) : isClass1 (BitVec.ofNat 4 (2 * j + 1)) = true := by
  revert j; decide

theorem isClass2_ofNat {j : Nat} (hj : j < 2) : isClass2 (BitVec.ofNat 4 (2 * j + 9)) = true := by
  revert j; decide

/-- Settles O37: the lane is the default element, and that is the shifted byte. -/
theorem defaultExpansionShiftsTheByte : Obligations.DefaultExpansionShiftsTheByte := by
  refine fun imm8 lane k => ⟨fun j hj hl hk => ?_, fun j hj hl hk => ?_⟩
  · rw [getLsbD_of_lane (expand_class1_lane _ imm8 (isClass1_ofNat hj) hl) hk]
    exact getLsbD_defaultElement32 imm8 hj hk
  · rw [getLsbD_of_lane (expand_class2_lane _ imm8 (isClass2_ofNat hj) hl) hk]
    exact getLsbD_defaultElement16 imm8 hj hk

/-- The values of `cmode` of the two classes, by the shift they stand for. -/
theorem cmode_eq_ofNat {cmode : BitVec 4} (h : (isClass1 cmode || isClass2 cmode) = true) :
    (∃ j < 4, cmode = BitVec.ofNat 4 (2 * j + 1)) ∨ ∃ j < 2, cmode = BitVec.ofNat 4 (2 * j + 9) := by
  revert cmode; decide

/-- A byte shifted within an element of more than one byte stands in one byte, and another byte is zero. -/
theorem bytes_of_shift {x : DWord} {imm8 : BitVec 8} {j w : Nat} (hj : 8 * j + 8 ≤ w) (hw : 16 ≤ w)
    (h : ∀ k < w, x.getLsbD k = (decide (8 * j ≤ k ∧ k < 8 * j + 8) && imm8.getLsbD (k - 8 * j)))
    {r : Nat} (hr : r < 8) :
    x.getLsbD (8 * j + r) = imm8.getLsbD r ∧ x.getLsbD (8 * (if j = 0 then 1 else 0) + r) = false := by
  constructor
  · rw [h _ (by omega), decide_eq_true (by omega), Bool.true_and, Nat.add_sub_cancel_left]
  · have hout : ¬(8 * j ≤ 8 * (if j = 0 then 1 else 0) + r ∧
        8 * (if j = 0 then 1 else 0) + r < 8 * j + 8) := by split <;> omega
    rw [h _ (by split <;> omega), decide_eq_false hout, Bool.false_and]

/-- In a default immediate some byte is `imm8`, and some other byte is zero, whatever `imm8` is. -/
theorem defaultExpansion_bytes {cmode : BitVec 4} (h : (isClass1 cmode || isClass2 cmode) = true) :
    ∃ a < 4, ∃ z < 2, ∀ (imm8 : BitVec 8), ∀ r < 8,
      (advSIMDExpandImm defaultParams 1#1 cmode imm8).getLsbD (8 * a + r) = imm8.getLsbD r ∧
      (advSIMDExpandImm defaultParams 1#1 cmode imm8).getLsbD (8 * z + r) = false := by
  rcases cmode_eq_ofNat h with ⟨j, hj, rfl⟩ | ⟨j, hj, rfl⟩
  · refine ⟨j, hj, if j = 0 then 1 else 0, by split <;> decide, fun imm8 r hr => ?_⟩
    refine bytes_of_shift (w := 32) (by omega) (by decide) (fun k hk => ?_) hr
    simpa using (defaultExpansionShiftsTheByte imm8 0 k).1 j hj (by decide) hk
  · refine ⟨j, by omega, if j = 0 then 1 else 0, by split <;> decide, fun imm8 r hr => ?_⟩
    refine bytes_of_shift (w := 16) (by omega) (by decide) (fun k hk => ?_) hr
    simpa using (defaultExpansionShiftsTheByte imm8 0 k).2 j hj (by decide) hk

theorem defaultExpansion_zero {cmode : BitVec 4} (h : (isClass1 cmode || isClass2 cmode) = true) :
    advSIMDExpandImm defaultParams 1#1 cmode 0#8 = 0#64 := by
  revert cmode; decide

/-- Settles O38: the expansion of 0 is 0, and a default immediate has a byte of zeros. -/
theorem defaultImmediateCorners : Obligations.DefaultImmediateCorners := by
  refine ⟨fun i s t hw hp h0 h n => ?_, fun p cmode imm8 hp hclass hones => ?_⟩
  · have himm : s.imm64 i.cmode i.imm8 = 0#64 := by
      rw [State.imm64, hp _ _ (class_of_wellFormed hw), h0, defaultExpansion_zero (class_of_wellFormed hw)]
    obtain ⟨hzero, _⟩ := bitClearLaws (s.readD n) 0 0 0
    rw [readD_exec h, himm, hzero, ite_self]
  · obtain ⟨_, _, z, hz, hbytes⟩ := defaultExpansion_bytes hclass
    obtain ⟨_, hbit⟩ := hbytes imm8 0 (by decide)
    rw [← hp cmode imm8 hclass, hones, BitVec.getLsbD_allOnes, decide_eq_false_iff_not] at hbit
    omega

end Sys2Proof.Machine
end

section
/-! The assembler (O52 to O55): what a line may assemble to, and the lines that some encoding answers
(R77, R80 to R84, R87). -/

namespace Sys2Proof.Machine

/-! ### The register of a line -/

/-- A register name gives a register number its form admits, since `Qn` is encoded as `2n` (R81). -/
theorem AsmReg.fields_admits (r : AsmReg) : (r.fields.1 && !isEvenReg r.fields.2) = false := by
  cases r with
  | d n => rfl
  | q n =>
    obtain ⟨_, _, _, _, heven, _⟩ := lowerHalf_upperHalf n
    exact quad_admits heven

theorem isUndefined_of_wellFormed {i : Instr} (hw : wellFormed i = true)
    (hadmits : (i.isQ && !isEvenReg i.reg) = false) : i.isUndefined = false := by
  cases i <;> simp_all [wellFormed, Instr.isUndefined, Instr.isQ, Instr.reg]

/-- Settles O52: the register name decides `Q` and the number, the data type the class (R77). -/
theorem assembledInstructionIsNeverUndefined : Obligations.AssembledInstructionIsNeverUndefined := by
  intro p l i h
  obtain ⟨_, hw, hi, hreg, _, hclass⟩ := (assemblesTo_iff p l i).1 h
  have hadmits := l.reg.fields_admits
  rw [← hreg] at hadmits
  refine ⟨isUndefined_of_wellFormed hw hadmits, hi, fun n hn => ?_, fun n hn => ?_, fun ht => ?_,
    fun ht => ?_⟩
  · rw [hn] at hreg
    exact Prod.mk.inj hreg
  · rw [hn] at hreg
    obtain ⟨hq, hd⟩ := Prod.mk.inj hreg
    exact ⟨hq, by rw [hd, (lowerHalf_upperHalf n).1]⟩
  · simpa [ht, DataType.allowsClass] using hclass
  · simpa [ht, DataType.allowsClass] using hclass

/-! ### Disassembly (R87) -/

theorem replicate_two (e : BitVec 32) : (BitVec.replicate 2 e).setWidth 64 = (e ++ e).setWidth 64 := by
  refine BitVec.eq_of_getLsbD_eq fun k hk => ?_
  simp only [BitVec.getLsbD_setWidth, BitVec.getLsbD_replicate, BitVec.getLsbD_append]
  interval_cases k <;> simp

theorem replicate_four (e : BitVec 16) :
    (BitVec.replicate 4 e).setWidth 64 = (e ++ e ++ e ++ e).setWidth 64 := by
  refine BitVec.eq_of_getLsbD_eq fun k hk => ?_
  simp only [BitVec.getLsbD_setWidth, BitVec.getLsbD_replicate, BitVec.getLsbD_append]
  interval_cases k <;> simp

theorem extractLsb'_setWidth_self {n : Nat} (e : BitVec n) (hn : n ≤ 64) :
    (e.setWidth 64).extractLsb' 0 n = e := by
  refine BitVec.eq_of_getLsbD_eq fun k hk => ?_
  have hk64 : k < 64 := hk.trans_le hn
  simp [hk, hk64]

/-- The low 32 bits of a class 1 immediate, written as an I32 constant, give it back. -/
theorem pattern_i32_of_class1 (p : Params) {cmode : BitVec 4} (imm8 : BitVec 8)
    (h : isClass1 cmode = true) :
    DataType.i32.pattern (((advSIMDExpandImm p 1#1 cmode imm8).extractLsb' 0 32).setWidth 64) =
      advSIMDExpandImm p 1#1 cmode imm8 := by
  have hlane := expand_class1_lane p imm8 h (lane := 0) (by decide)
  rw [Nat.mul_zero] at hlane
  rw [hlane, expand_class1 p imm8 h, ← replicate_two, DataType.pattern,
    extractLsb'_setWidth_self _ (by decide)]

/-- The low 16 bits of a class 2 immediate, written as an I16 constant, give it back. -/
theorem pattern_i16_of_class2 (p : Params) {cmode : BitVec 4} (imm8 : BitVec 8)
    (h : isClass2 cmode = true) :
    DataType.i16.pattern (((advSIMDExpandImm p 1#1 cmode imm8).extractLsb' 0 16).setWidth 64) =
      advSIMDExpandImm p 1#1 cmode imm8 := by
  have hlane := expand_class2_lane p imm8 h (lane := 0) (by decide)
  rw [Nat.mul_zero] at hlane
  rw [hlane, expand_class2 p imm8 h, ← replicate_four, DataType.pattern,
    extractLsb'_setWidth_self _ (by decide)]

/-- An even register number is the lower half of the `Q` register of half the number. -/
theorem lowerHalf_extract {d : RegNum} (h : isEvenReg d = true) : lowerHalf (d.extractLsb' 1 4) = d := by
  revert d; decide

theorem toNat_setWidth_lt {n : Nat} (x : BitVec n) (hn : n ≤ 64) : (x.setWidth 64).toNat < 2 ^ n := by
  rw [BitVec.toNat_setWidth_of_le hn]
  exact x.isLt

/-- A line without the optional parts is accepted where its constant is of the size of the data type. -/
theorem AsmLine.accepted_of_plain {l : AsmLine} (hc : l.conditional = false) (hw : l.width = none)
    (hf : l.first = none) (himm : l.imm.toNat < 2 ^ l.dtype.bits) : l.accepted = true := by
  simp [AsmLine.accepted, hc, hw, hf, himm]

/-- The line that disassembles an instruction of the eight encodings. -/
theorem disassemble_eq {i : Instr} (hu : i.isUndefined = false) (p : Params) :
    disassemble p i = some
      { iset := i.iset
        conditional := false
        width := none
        dtype := if i.inClass2 then .i16 else .i32
        first := none
        reg := if i.isQ then .q (i.reg.extractLsb' 1 4) else .d i.reg
        imm := if i.inClass2 then ((advSIMDExpandImm p 1#1 i.cmode i.imm8).extractLsb' 0 16).setWidth 64
          else ((advSIMDExpandImm p 1#1 i.cmode i.imm8).extractLsb' 0 32).setWidth 64 } := by
  rw [disassemble, hu]
  rfl

theorem fields_of_disassembled {i : Instr} (hadmits : (i.isQ && !isEvenReg i.reg) = false) :
    (if i.isQ then AsmReg.q (i.reg.extractLsb' 1 4) else .d i.reg).fields = (i.isQ, i.reg) := by
  cases hq : i.isQ with
  | false => rfl
  | true =>
    have heven : isEvenReg i.reg = true := by simpa [hq] using hadmits
    simp [AsmReg.fields, lowerHalf_extract heven]

/-- Settles O53: the line of `disassemble_eq` has the instruction's own register and class, and its constant
gives back the immediate. -/
theorem disassembledLineAssemblesBack : Obligations.DisassembledLineAssemblesBack := by
  intro p i hw hu
  refine ⟨_, disassemble_eq hu p, ?_, (assemblesTo_iff _ _ _).2 ⟨?_, hw, rfl, ?_, ?_, ?_⟩⟩
  · cases i.inClass2 <;> simp
  · cases i.inClass2 with
    | false => exact AsmLine.accepted_of_plain rfl rfl rfl (toNat_setWidth_lt (n := 32) _ (by decide))
    | true => exact AsmLine.accepted_of_plain rfl rfl rfl (toNat_setWidth_lt (n := 16) _ (by decide))
  · exact (fields_of_disassembled (wellFormed_reg hw hu)).symm
  · cases hc : i.inClass2 with
    | false => exact (pattern_i32_of_class1 p _ (wellFormed_isClass1 hw hc)).symm
    | true => exact (pattern_i16_of_class2 p _ (wellFormed_isClass2 hw hc)).symm
  · cases i.inClass2 <;> rfl

/-! ### The pseudo data types (R84) -/

/-- Bit by bit, an I8 pattern is its byte. -/
theorem getLsbD_pattern_i8 (imm : BitVec 64) {a r : Nat} (ha : a < 8) (hr : r < 8) :
    (DataType.i8.pattern imm).getLsbD (8 * a + r) = imm.getLsbD r := by
  have hmod : (8 * a + r) % 8 = r := by omega
  have hlt : 8 * a + r < 8 * 8 := by omega
  rw [DataType.pattern, BitVec.getLsbD_setWidth, BitVec.getLsbD_replicate, hmod,
    BitVec.getLsbD_extractLsb', Nat.zero_add, decide_eq_true hlt, decide_eq_true hr, Bool.true_and,
    Bool.true_and, Bool.true_and]

/-- A default immediate that is an I8 pattern has a zero byte, so it is the pattern of 0. -/
theorem zero_of_default_pattern_i8 {cmode : BitVec 4} {imm8 : BitVec 8} {imm : BitVec 64}
    (hclass : (isClass1 cmode || isClass2 cmode) = true) (himm : imm.toNat < 2 ^ 8)
    (h : advSIMDExpandImm defaultParams 1#1 cmode imm8 = DataType.i8.pattern imm) :
    imm = 0#64 ∧ imm8 = 0#8 := by
  obtain ⟨a, ha, z, hz, hbytes⟩ := defaultExpansion_bytes hclass
  have hzero : ∀ r < 8, imm.getLsbD r = false := fun r hr => by
    rw [← getLsbD_pattern_i8 imm (a := z) (by omega) hr, ← h]
    exact (hbytes imm8 r hr).2
  constructor
  · refine BitVec.eq_of_getLsbD_eq fun k _ => ?_
    by_cases hk : k < 8
    · rw [hzero k hk, BitVec.getLsbD_zero]
    · rw [BitVec.getLsbD_zero]
      exact Nat.testBit_lt_two_pow (himm.trans_le (Nat.pow_le_pow_right (by decide) (by omega)))
  · refine BitVec.eq_of_getLsbD_eq fun r hr => ?_
    rw [← (hbytes imm8 r hr).1, h, getLsbD_pattern_i8 imm (by omega) hr, hzero r hr, BitVec.getLsbD_zero]

theorem toNat_lt_of_accepted {l : AsmLine} (h : l.accepted = true) : l.imm.toNat < 2 ^ l.dtype.bits := by
  simp only [AsmLine.accepted, Bool.and_eq_true, decide_eq_true_eq] at h
  exact h.2

/-- Settles O54: only the constant 0 has an encoding, and class 2 has one for it. -/
theorem pseudoTypeI8AdmitsOnlyZero : Obligations.PseudoTypeI8AdmitsOnlyZero := by
  intro p l i hp ht h
  obtain ⟨haccepted, hw, _, _, hpattern, hallows⟩ := (assemblesTo_iff p l i).1 h
  have hlt := toNat_lt_of_accepted haccepted
  have hclass := class_of_wellFormed hw
  rw [ht] at hpattern hallows hlt
  obtain ⟨himm, himm8⟩ := zero_of_default_pattern_i8 hclass hlt ((hp _ _ hclass).symm.trans hpattern)
  refine ⟨himm, himm8, ?_⟩
  have hgives : classGives p true (DataType.i8.pattern l.imm) = true :=
    (classGives_iff _ _ _).2 ⟨0b1001#4, 0#8, rfl, by
      rw [hp _ _ rfl, himm]
      decide⟩
  simpa [DataType.allowsClass, hgives] using hallows

/-- Where some class gives the pattern, the data type takes one that does. -/
theorem allowsClass_of_classGives {t : DataType} (ht : t = .i8 ∨ t = .i64 ∨ t = .f32) {p : Params}
    {pattern : BitVec 64} {class2 : Bool} (h : classGives p class2 pattern = true) :
    ∃ c, classGives p c pattern = true ∧ t.allowsClass p pattern c = true := by
  rcases ht with rfl | rfl | rfl
  · cases h2 : classGives p true pattern with
    | true => exact ⟨true, h2, rfl⟩
    | false => exact ⟨class2, h, by simp [DataType.allowsClass, h2]⟩
  · exact ⟨class2, h, rfl⟩
  · cases h1 : classGives p false pattern with
    | true => exact ⟨false, h1, rfl⟩
    | false => exact ⟨class2, h, by simp [DataType.allowsClass, h1]⟩

/-- Some encoding of either class gives the pattern. -/
theorem exists_classGives_iff (p : Params) (pattern : BitVec 64) :
    (∃ class2, classGives p class2 pattern = true) ↔ ∃ (cmode : BitVec 4) (imm8 : BitVec 8),
      (isClass1 cmode = true ∨ isClass2 cmode = true) ∧ advSIMDExpandImm p 1#1 cmode imm8 = pattern := by
  constructor
  · rintro ⟨class2, h⟩
    obtain ⟨cmode, imm8, hc, hp⟩ := (classGives_iff _ _ _).1 h
    cases class2 with
    | false => exact ⟨cmode, imm8, .inl hc, hp⟩
    | true => exact ⟨cmode, imm8, .inr hc, hp⟩
  · rintro ⟨cmode, imm8, hc | hc, hp⟩
    · exact ⟨false, (classGives_iff _ _ _).2 ⟨cmode, imm8, hc, hp⟩⟩
    · exact ⟨true, (classGives_iff _ _ _).2 ⟨cmode, imm8, hc, hp⟩⟩

/-- A `cmode` of a class is of no related encoding, and its `cmode<3>` is the class. -/
theorem seeRelated_of_class {class2 : Bool} {cmode : BitVec 4}
    (h : (if class2 then isClass2 cmode else isClass1 cmode) = true) :
    seeRelated cmode = false ∧ cmode.getLsbD 3 = class2 := by
  revert class2 cmode; decide

/-- An accepted line assembles to an encoding of a class that its data type takes and that gives its
pattern. -/
theorem assemblesTo_of_classGives {p : Params} {l : AsmLine} {class2 : Bool} (hl : l.accepted = true)
    (hgives : classGives p class2 (l.dtype.pattern l.imm) = true)
    (hallows : l.dtype.allowsClass p (l.dtype.pattern l.imm) class2 = true) :
    ∃ i, assemblesTo p l i = true := by
  obtain ⟨cmode, imm8, hc, hp⟩ := (classGives_iff _ _ _).1 hgives
  obtain ⟨hr, h3⟩ := seeRelated_of_class hc
  obtain ⟨hw, hi, hclass⟩ := instrOfFields_wellFormed (iset := l.iset) (q := l.reg.fields.1)
    (d := l.reg.fields.2) (imm8 := imm8) hr
  obtain ⟨hq, hd, hcm, hb, _⟩ := instrOfFields_fields l.iset l.reg.fields.1 l.reg.fields.2 cmode imm8
  refine ⟨_, (assemblesTo_iff _ _ _).2 ⟨hl, hw, hi, ?_, ?_, ?_⟩⟩
  · rw [hq, hd]
  · rw [hcm, hb, hp]
  · rw [hclass, h3, hallows]

/-- Settles O55: `exists_classGives_iff` and `assemblesTo_of_classGives`; a pseudo data type keeps off a
class only where the other one gives the pattern. -/
theorem pseudoTypeAcceptedExactlyWhenEncodable :
    Obligations.PseudoTypeAcceptedExactlyWhenEncodable := by
  refine fun p l ht hl => ⟨⟨fun ⟨i, h⟩ => ?_, fun h => ?_⟩, fun i h => ?_⟩
  · obtain ⟨_, hw, _, _, hpattern, _⟩ := (assemblesTo_iff p l i).1 h
    exact ⟨i.cmode, i.imm8, by simpa using class_of_wellFormed hw, hpattern⟩
  · obtain ⟨_, hgives⟩ := (exists_classGives_iff _ _).2 h
    obtain ⟨_, hgives, hallows⟩ := allowsClass_of_classGives ht hgives
    exact assemblesTo_of_classGives hl hgives hallows
  · obtain ⟨_, _, _, _, hpattern, hallows⟩ := (assemblesTo_iff p l i).1 h
    refine ⟨hpattern, fun hi8 hclass cmode imm8 hc hp => ?_, fun hf32 hclass cmode imm8 hc hp => ?_⟩
    · rw [hi8] at hallows hp
      have hgives := (classGives_iff p true _).2 ⟨cmode, imm8, hc, hp⟩
      simp [DataType.allowsClass, hclass, hgives] at hallows
    · rw [hf32] at hallows hp
      have hgives := (classGives_iff p false _).2 ⟨cmode, imm8, hc, hp⟩
      simp [DataType.allowsClass, hclass, hgives] at hallows

end Sys2Proof.Machine
end
